-- ==== Sys2Proof/Word.lean ====
section
/-! DEFINITION. The two word types of the machine: a byte of 8 bits and an address of 16 bits (spec/20_memory.md R30).
Everything computed from them (byte order, sign extension, carries) stands in Sys2Proof/Machine/Bytes.lean and
Sys2Proof/Machine/Operands.lean. -/

namespace Sys2Proof

/-- One byte, 8 bits: a memory cell, an opcode, the registers A, X, Y and S (R30, R11, R12, R13). -/
abbrev Byte := BitVec 8

/-- One 16-bit address: the program counter and every value of the `address` column (R14, R30). -/
abbrev Addr := BitVec 16

end Sys2Proof
end

