-- ==== Sys2Proof/Machine/Bytes.lean ====
section
/-! DEFINITION. Byte order and extension: how two bytes make an address and an address splits into its halves
(spec/00_scope.md section 6, spec/20_memory.md R34, spec/10_state.md R14). -/

namespace Sys2Proof.Machine

/-- `hi:lo`, the 16-bit value `hi * 256 + lo` (00_scope.md section 6). -/
def addrOf (hi lo : Byte) : Addr := hi ++ lo

/-- The low byte of an address: PCL of a program counter (R14). -/
def lowByte (a : Addr) : Byte := a.extractLsb' 0 8

/-- The high byte of an address: PCH of a program counter, the page of an address (R14). -/
def highByte (a : Addr) : Byte := a.extractLsb' 8 8

/-- `zext_16(b)`: the byte as an unsigned 16-bit value (00_scope.md section 6). -/
def zext16 (b : Byte) : Addr := b.setWidth 16

/-- `sext_16(b)`: the byte as a two's complement number widened to 16 bits (00_scope.md section 6, R53, R117). -/
def sext16 (b : Byte) : Addr := b.signExtend 16

/-- Byte `k` of a number, byte 0 the least significant: how `decodeTableWord` and `withFetchWord` lay out a word. -/
def byteOfNat (w k : Nat) : Byte := BitVec.ofNat 8 (w / 256 ^ k)

end Sys2Proof.Machine
end

