-- ==== Sys2Proof/Syntax.lean ====
section
/-! DEFINITION. The instructions: one constructor of `Instr` per row of spec/opcode_table.json (spec/30_encoding.md R56), in
opcode order. An operand is what the instruction's bytes after the opcode give (R51, R53): a byte (immediate value, zero-page
address, zero-page pointer address, branch displacement) or a 16-bit address. BRK's padding byte is no operand (R52, log 18). -/

namespace Sys2Proof

/-- The mnemonics of the opcode table, in the source's spelling (R61). -/
inductive Mnemonic where
  | adc | and | asl | bcc | bcs | beq | bit | bmi | bne | bpl | brk | bvc | bvs | clc
  | cld | cli | clv | cmp | cpx | cpy | dcp | dec | dex | dey | eor | inc | inx | iny
  | isb | jmp | jsr | lae | lax | lda | ldx | ldy | lsr | nop | ora | pha | php | pla
  | plp | rla | rol | ror | rra | rti | rts | sax | sbc | sec | sed | sei | sha | shs
  | shx | shy | slo | sre | sta | stx | sty | tax | tay | tsx | txa | txs | tya
deriving DecidableEq, Repr

/-- The addressing modes (formats) of R51. -/
inductive Mode where
  | implied | accumulator | brk | immediate | zeroPage | zeroPageX | zeroPageY | relative
  | indexedIndirect | indirectIndexed | absolute | absoluteX | absoluteY | indirect
deriving DecidableEq, Repr

/-- The index register `I` of an indexed mode (00_scope.md section 7). -/
inductive Index where
  | x | y
deriving DecidableEq, Repr

/-- The eight conditional branches, whose conditions R116 gives. -/
inductive Branch where
  | bpl | bmi | bvc | bvs | bcc | bcs | bne | beq
deriving DecidableEq, Repr

/-- One instruction of the opcode map (R56): the row, and the operand its bytes hold. -/
inductive Instr where
  /-- `$00` BRK, BRK (opcode + one padding byte) (R71). -/
  | brk
  /-- `$01` ORA, (zero page,X) (R121). -/
  | oraIndX (p : Byte)
  /-- `$03` SLO, (zero page,X) (R122). -/
  | sloIndX (p : Byte)
  /-- `$04` NOP, zero page (R100). -/
  | nopZp04 (zp : Byte)
  /-- `$05` ORA, zero page (R100). -/
  | oraZp (zp : Byte)
  /-- `$06` ASL, zero page (R101). -/
  | aslZp (zp : Byte)
  /-- `$07` SLO, zero page (R101). -/
  | sloZp (zp : Byte)
  /-- `$08` PHP, implied (R75). -/
  | php
  /-- `$09` ORA, immediate (R91). -/
  | oraImm (v : Byte)
  /-- `$0A` ASL, accumulator (R90). -/
  | aslAcc
  /-- `$0C` NOP, absolute (R96). -/
  | nopAbs (a : Addr)
  /-- `$0D` ORA, absolute (R96). -/
  | oraAbs (a : Addr)
  /-- `$0E` ASL, absolute (R97). -/
  | aslAbs (a : Addr)
  /-- `$0F` SLO, absolute (R97). -/
  | sloAbs (a : Addr)
  /-- `$10` BPL, relative (R180). -/
  | bpl (d : Byte)
  /-- `$11` ORA, (zero page),Y (R125). -/
  | oraIndY (p : Byte)
  /-- `$13` SLO, (zero page),Y (R126). -/
  | sloIndY (p : Byte)
  /-- `$14` NOP, zero page,X (R103). -/
  | nopZpX14 (zp : Byte)
  /-- `$15` ORA, zero page,X (R103). -/
  | oraZpX (zp : Byte)
  /-- `$16` ASL, zero page,X (R104). -/
  | aslZpX (zp : Byte)
  /-- `$17` SLO, zero page,X (R104). -/
  | sloZpX (zp : Byte)
  /-- `$18` CLC, implied (R90). -/
  | clc
  /-- `$19` ORA, absolute,Y (R111). -/
  | oraAbsY (a : Addr)
  /-- `$1B` SLO, absolute,Y (R112). -/
  | sloAbsY (a : Addr)
  /-- `$1C` NOP, absolute,X (R111). -/
  | nopAbsX1C (a : Addr)
  /-- `$1D` ORA, absolute,X (R111). -/
  | oraAbsX (a : Addr)
  /-- `$1E` ASL, absolute,X (R112). -/
  | aslAbsX (a : Addr)
  /-- `$1F` SLO, absolute,X (R112). -/
  | sloAbsX (a : Addr)
  /-- `$20` JSR, absolute (R78). -/
  | jsr (a : Addr)
  /-- `$21` AND, (zero page,X) (R121). -/
  | andIndX (p : Byte)
  /-- `$23` RLA, (zero page,X) (R122). -/
  | rlaIndX (p : Byte)
  /-- `$24` BIT, zero page (R100). -/
  | bitZp (zp : Byte)
  /-- `$25` AND, zero page (R100). -/
  | andZp (zp : Byte)
  /-- `$26` ROL, zero page (R101). -/
  | rolZp (zp : Byte)
  /-- `$27` RLA, zero page (R101). -/
  | rlaZp (zp : Byte)
  /-- `$28` PLP, implied (R77). -/
  | plp
  /-- `$29` AND, immediate (R91). -/
  | andImm (v : Byte)
  /-- `$2A` ROL, accumulator (R90). -/
  | rolAcc
  /-- `$2C` BIT, absolute (R96). -/
  | bitAbs (a : Addr)
  /-- `$2D` AND, absolute (R96). -/
  | andAbs (a : Addr)
  /-- `$2E` ROL, absolute (R97). -/
  | rolAbs (a : Addr)
  /-- `$2F` RLA, absolute (R97). -/
  | rlaAbs (a : Addr)
  /-- `$30` BMI, relative (R181). -/
  | bmi (d : Byte)
  /-- `$31` AND, (zero page),Y (R125). -/
  | andIndY (p : Byte)
  /-- `$33` RLA, (zero page),Y (R126). -/
  | rlaIndY (p : Byte)
  /-- `$34` NOP, zero page,X (R103). -/
  | nopZpX34 (zp : Byte)
  /-- `$35` AND, zero page,X (R103). -/
  | andZpX (zp : Byte)
  /-- `$36` ROL, zero page,X (R104). -/
  | rolZpX (zp : Byte)
  /-- `$37` RLA, zero page,X (R104). -/
  | rlaZpX (zp : Byte)
  /-- `$38` SEC, implied (R90). -/
  | sec
  /-- `$39` AND, absolute,Y (R111). -/
  | andAbsY (a : Addr)
  /-- `$3B` RLA, absolute,Y (R112). -/
  | rlaAbsY (a : Addr)
  /-- `$3C` NOP, absolute,X (R111). -/
  | nopAbsX3C (a : Addr)
  /-- `$3D` AND, absolute,X (R111). -/
  | andAbsX (a : Addr)
  /-- `$3E` ROL, absolute,X (R112). -/
  | rolAbsX (a : Addr)
  /-- `$3F` RLA, absolute,X (R112). -/
  | rlaAbsX (a : Addr)
  /-- `$40` RTI, implied (R72). -/
  | rti
  /-- `$41` EOR, (zero page,X) (R121). -/
  | eorIndX (p : Byte)
  /-- `$43` SRE, (zero page,X) (R122). -/
  | sreIndX (p : Byte)
  /-- `$44` NOP, zero page (R100). -/
  | nopZp44 (zp : Byte)
  /-- `$45` EOR, zero page (R100). -/
  | eorZp (zp : Byte)
  /-- `$46` LSR, zero page (R101). -/
  | lsrZp (zp : Byte)
  /-- `$47` SRE, zero page (R101). -/
  | sreZp (zp : Byte)
  /-- `$48` PHA, implied (R74). -/
  | pha
  /-- `$49` EOR, immediate (R91). -/
  | eorImm (v : Byte)
  /-- `$4A` LSR, accumulator (R90). -/
  | lsrAcc
  /-- `$4C` JMP, absolute (R95). -/
  | jmpAbs (a : Addr)
  /-- `$4D` EOR, absolute (R96). -/
  | eorAbs (a : Addr)
  /-- `$4E` LSR, absolute (R97). -/
  | lsrAbs (a : Addr)
  /-- `$4F` SRE, absolute (R97). -/
  | sreAbs (a : Addr)
  /-- `$50` BVC, relative (R182). -/
  | bvc (d : Byte)
  /-- `$51` EOR, (zero page),Y (R125). -/
  | eorIndY (p : Byte)
  /-- `$53` SRE, (zero page),Y (R126). -/
  | sreIndY (p : Byte)
  /-- `$54` NOP, zero page,X (R103). -/
  | nopZpX54 (zp : Byte)
  /-- `$55` EOR, zero page,X (R103). -/
  | eorZpX (zp : Byte)
  /-- `$56` LSR, zero page,X (R104). -/
  | lsrZpX (zp : Byte)
  /-- `$57` SRE, zero page,X (R104). -/
  | sreZpX (zp : Byte)
  /-- `$58` CLI, implied (R90). -/
  | cli
  /-- `$59` EOR, absolute,Y (R111). -/
  | eorAbsY (a : Addr)
  /-- `$5B` SRE, absolute,Y (R112). -/
  | sreAbsY (a : Addr)
  /-- `$5C` NOP, absolute,X (R111). -/
  | nopAbsX5C (a : Addr)
  /-- `$5D` EOR, absolute,X (R111). -/
  | eorAbsX (a : Addr)
  /-- `$5E` LSR, absolute,X (R112). -/
  | lsrAbsX (a : Addr)
  /-- `$5F` SRE, absolute,X (R112). -/
  | sreAbsX (a : Addr)
  /-- `$60` RTS, implied (R73). -/
  | rts
  /-- `$61` ADC, (zero page,X) (R121). -/
  | adcIndX (p : Byte)
  /-- `$63` RRA, (zero page,X) (R122). -/
  | rraIndX (p : Byte)
  /-- `$64` NOP, zero page (R100). -/
  | nopZp64 (zp : Byte)
  /-- `$65` ADC, zero page (R100). -/
  | adcZp (zp : Byte)
  /-- `$66` ROR, zero page (R101). -/
  | rorZp (zp : Byte)
  /-- `$67` RRA, zero page (R101). -/
  | rraZp (zp : Byte)
  /-- `$68` PLA, implied (R76). -/
  | pla
  /-- `$69` ADC, immediate (R91). -/
  | adcImm (v : Byte)
  /-- `$6A` ROR, accumulator (R90). -/
  | rorAcc
  /-- `$6C` JMP, (absolute) (R128). -/
  | jmpInd (a : Addr)
  /-- `$6D` ADC, absolute (R96). -/
  | adcAbs (a : Addr)
  /-- `$6E` ROR, absolute (R97). -/
  | rorAbs (a : Addr)
  /-- `$6F` RRA, absolute (R97). -/
  | rraAbs (a : Addr)
  /-- `$70` BVS, relative (R183). -/
  | bvs (d : Byte)
  /-- `$71` ADC, (zero page),Y (R125). -/
  | adcIndY (p : Byte)
  /-- `$73` RRA, (zero page),Y (R126). -/
  | rraIndY (p : Byte)
  /-- `$74` NOP, zero page,X (R103). -/
  | nopZpX74 (zp : Byte)
  /-- `$75` ADC, zero page,X (R103). -/
  | adcZpX (zp : Byte)
  /-- `$76` ROR, zero page,X (R104). -/
  | rorZpX (zp : Byte)
  /-- `$77` RRA, zero page,X (R104). -/
  | rraZpX (zp : Byte)
  /-- `$78` SEI, implied (R90). -/
  | sei
  /-- `$79` ADC, absolute,Y (R111). -/
  | adcAbsY (a : Addr)
  /-- `$7B` RRA, absolute,Y (R112). -/
  | rraAbsY (a : Addr)
  /-- `$7C` NOP, absolute,X (R111). -/
  | nopAbsX7C (a : Addr)
  /-- `$7D` ADC, absolute,X (R111). -/
  | adcAbsX (a : Addr)
  /-- `$7E` ROR, absolute,X (R112). -/
  | rorAbsX (a : Addr)
  /-- `$7F` RRA, absolute,X (R112). -/
  | rraAbsX (a : Addr)
  /-- `$81` STA, (zero page,X) (R123). -/
  | staIndX (p : Byte)
  /-- `$83` SAX, (zero page,X) (R123). -/
  | saxIndX (p : Byte)
  /-- `$84` STY, zero page (R102). -/
  | styZp (zp : Byte)
  /-- `$85` STA, zero page (R102). -/
  | staZp (zp : Byte)
  /-- `$86` STX, zero page (R102). -/
  | stxZp (zp : Byte)
  /-- `$87` SAX, zero page (R102). -/
  | saxZp (zp : Byte)
  /-- `$88` DEY, implied (R90). -/
  | dey
  /-- `$8A` TXA, implied (R90). -/
  | txa
  /-- `$8C` STY, absolute (R98). -/
  | styAbs (a : Addr)
  /-- `$8D` STA, absolute (R98). -/
  | staAbs (a : Addr)
  /-- `$8E` STX, absolute (R98). -/
  | stxAbs (a : Addr)
  /-- `$8F` SAX, absolute (R98). -/
  | saxAbs (a : Addr)
  /-- `$90` BCC, relative (R184). -/
  | bcc (d : Byte)
  /-- `$91` STA, (zero page),Y (R127). -/
  | staIndY (p : Byte)
  /-- `$93` SHA, (zero page),Y (R127). -/
  | shaIndY (p : Byte)
  /-- `$94` STY, zero page,X (R105). -/
  | styZpX (zp : Byte)
  /-- `$95` STA, zero page,X (R105). -/
  | staZpX (zp : Byte)
  /-- `$96` STX, zero page,Y (R105). -/
  | stxZpY (zp : Byte)
  /-- `$97` SAX, zero page,Y (R105). -/
  | saxZpY (zp : Byte)
  /-- `$98` TYA, implied (R90). -/
  | tya
  /-- `$99` STA, absolute,Y (R113). -/
  | staAbsY (a : Addr)
  /-- `$9A` TXS, implied (R90). -/
  | txs
  /-- `$9B` SHS, absolute,Y (R111). -/
  | shsAbsY (a : Addr)
  /-- `$9C` SHY, absolute,X (R113). -/
  | shyAbsX (a : Addr)
  /-- `$9D` STA, absolute,X (R113). -/
  | staAbsX (a : Addr)
  /-- `$9E` SHX, absolute,Y (R113). -/
  | shxAbsY (a : Addr)
  /-- `$9F` SHA, absolute,Y (R113). -/
  | shaAbsY (a : Addr)
  /-- `$A0` LDY, immediate (R91). -/
  | ldyImm (v : Byte)
  /-- `$A1` LDA, (zero page,X) (R121). -/
  | ldaIndX (p : Byte)
  /-- `$A2` LDX, immediate (R91). -/
  | ldxImm (v : Byte)
  /-- `$A3` LAX, (zero page,X) (R121). -/
  | laxIndX (p : Byte)
  /-- `$A4` LDY, zero page (R100). -/
  | ldyZp (zp : Byte)
  /-- `$A5` LDA, zero page (R100). -/
  | ldaZp (zp : Byte)
  /-- `$A6` LDX, zero page (R100). -/
  | ldxZp (zp : Byte)
  /-- `$A7` LAX, zero page (R100). -/
  | laxZp (zp : Byte)
  /-- `$A8` TAY, implied (R90). -/
  | tay
  /-- `$A9` LDA, immediate (R91). -/
  | ldaImm (v : Byte)
  /-- `$AA` TAX, implied (R90). -/
  | tax
  /-- `$AC` LDY, absolute (R96). -/
  | ldyAbs (a : Addr)
  /-- `$AD` LDA, absolute (R96). -/
  | ldaAbs (a : Addr)
  /-- `$AE` LDX, absolute (R96). -/
  | ldxAbs (a : Addr)
  /-- `$AF` LAX, absolute (R96). -/
  | laxAbs (a : Addr)
  /-- `$B0` BCS, relative (R185). -/
  | bcs (d : Byte)
  /-- `$B1` LDA, (zero page),Y (R125). -/
  | ldaIndY (p : Byte)
  /-- `$B3` LAX, (zero page),Y (R125). -/
  | laxIndY (p : Byte)
  /-- `$B4` LDY, zero page,X (R103). -/
  | ldyZpX (zp : Byte)
  /-- `$B5` LDA, zero page,X (R103). -/
  | ldaZpX (zp : Byte)
  /-- `$B6` LDX, zero page,Y (R103). -/
  | ldxZpY (zp : Byte)
  /-- `$B7` LAX, zero page,Y (R103). -/
  | laxZpY (zp : Byte)
  /-- `$B8` CLV, implied (R90). -/
  | clv
  /-- `$B9` LDA, absolute,Y (R111). -/
  | ldaAbsY (a : Addr)
  /-- `$BA` TSX, implied (R90). -/
  | tsx
  /-- `$BB` LAE, absolute,Y (R111). -/
  | laeAbsY (a : Addr)
  /-- `$BC` LDY, absolute,X (R111). -/
  | ldyAbsX (a : Addr)
  /-- `$BD` LDA, absolute,X (R111). -/
  | ldaAbsX (a : Addr)
  /-- `$BE` LDX, absolute,Y (R111). -/
  | ldxAbsY (a : Addr)
  /-- `$BF` LAX, absolute,Y (R111). -/
  | laxAbsY (a : Addr)
  /-- `$C0` CPY, immediate (R91). -/
  | cpyImm (v : Byte)
  /-- `$C1` CMP, (zero page,X) (R121). -/
  | cmpIndX (p : Byte)
  /-- `$C3` DCP, (zero page,X) (R122). -/
  | dcpIndX (p : Byte)
  /-- `$C4` CPY, zero page (R100). -/
  | cpyZp (zp : Byte)
  /-- `$C5` CMP, zero page (R100). -/
  | cmpZp (zp : Byte)
  /-- `$C6` DEC, zero page (R101). -/
  | decZp (zp : Byte)
  /-- `$C7` DCP, zero page (R101). -/
  | dcpZp (zp : Byte)
  /-- `$C8` INY, implied (R90). -/
  | iny
  /-- `$C9` CMP, immediate (R91). -/
  | cmpImm (v : Byte)
  /-- `$CA` DEX, implied (R90). -/
  | dex
  /-- `$CC` CPY, absolute (R96). -/
  | cpyAbs (a : Addr)
  /-- `$CD` CMP, absolute (R96). -/
  | cmpAbs (a : Addr)
  /-- `$CE` DEC, absolute (R97). -/
  | decAbs (a : Addr)
  /-- `$CF` DCP, absolute (R97). -/
  | dcpAbs (a : Addr)
  /-- `$D0` BNE, relative (R186). -/
  | bne (d : Byte)
  /-- `$D1` CMP, (zero page),Y (R125). -/
  | cmpIndY (p : Byte)
  /-- `$D3` DCP, (zero page),Y (R126). -/
  | dcpIndY (p : Byte)
  /-- `$D4` NOP, zero page,X (R103). -/
  | nopZpXD4 (zp : Byte)
  /-- `$D5` CMP, zero page,X (R103). -/
  | cmpZpX (zp : Byte)
  /-- `$D6` DEC, zero page,X (R104). -/
  | decZpX (zp : Byte)
  /-- `$D7` DCP, zero page,X (R104). -/
  | dcpZpX (zp : Byte)
  /-- `$D8` CLD, implied (R90). -/
  | cld
  /-- `$D9` CMP, absolute,Y (R111). -/
  | cmpAbsY (a : Addr)
  /-- `$DB` DCP, absolute,Y (R112). -/
  | dcpAbsY (a : Addr)
  /-- `$DC` NOP, absolute,X (R111). -/
  | nopAbsXDC (a : Addr)
  /-- `$DD` CMP, absolute,X (R111). -/
  | cmpAbsX (a : Addr)
  /-- `$DE` DEC, absolute,X (R112). -/
  | decAbsX (a : Addr)
  /-- `$DF` DCP, absolute,X (R112). -/
  | dcpAbsX (a : Addr)
  /-- `$E0` CPX, immediate (R91). -/
  | cpxImm (v : Byte)
  /-- `$E1` SBC, (zero page,X) (R121). -/
  | sbcIndX (p : Byte)
  /-- `$E3` ISB, (zero page,X) (R122). -/
  | isbIndX (p : Byte)
  /-- `$E4` CPX, zero page (R100). -/
  | cpxZp (zp : Byte)
  /-- `$E5` SBC, zero page (R100). -/
  | sbcZp (zp : Byte)
  /-- `$E6` INC, zero page (R101). -/
  | incZp (zp : Byte)
  /-- `$E7` ISB, zero page (R101). -/
  | isbZp (zp : Byte)
  /-- `$E8` INX, implied (R90). -/
  | inx
  /-- `$E9` SBC, immediate (R91). -/
  | sbcImm (v : Byte)
  /-- `$EA` NOP, implied (R90). -/
  | nop
  /-- `$EC` CPX, absolute (R96). -/
  | cpxAbs (a : Addr)
  /-- `$ED` SBC, absolute (R96). -/
  | sbcAbs (a : Addr)
  /-- `$EE` INC, absolute (R97). -/
  | incAbs (a : Addr)
  /-- `$EF` ISB, absolute (R97). -/
  | isbAbs (a : Addr)
  /-- `$F0` BEQ, relative (R187). -/
  | beq (d : Byte)
  /-- `$F1` SBC, (zero page),Y (R125). -/
  | sbcIndY (p : Byte)
  /-- `$F3` ISB, (zero page),Y (R126). -/
  | isbIndY (p : Byte)
  /-- `$F4` NOP, zero page,X (R103). -/
  | nopZpXF4 (zp : Byte)
  /-- `$F5` SBC, zero page,X (R103). -/
  | sbcZpX (zp : Byte)
  /-- `$F6` INC, zero page,X (R104). -/
  | incZpX (zp : Byte)
  /-- `$F7` ISB, zero page,X (R104). -/
  | isbZpX (zp : Byte)
  /-- `$F8` SED, implied (R90). -/
  | sed
  /-- `$F9` SBC, absolute,Y (R111). -/
  | sbcAbsY (a : Addr)
  /-- `$FB` ISB, absolute,Y (R112). -/
  | isbAbsY (a : Addr)
  /-- `$FC` NOP, absolute,X (R111). -/
  | nopAbsXFC (a : Addr)
  /-- `$FD` SBC, absolute,X (R111). -/
  | sbcAbsX (a : Addr)
  /-- `$FE` INC, absolute,X (R112). -/
  | incAbsX (a : Addr)
  /-- `$FF` ISB, absolute,X (R112). -/
  | isbAbsX (a : Addr)
deriving DecidableEq, Repr

end Sys2Proof
end

