-- ==== Sys2Proof/WellFormed.lean ====
section
/-! DEFINITION. Which written instructions exist (spec/30_encoding.md R56, R57, R62): the pairs of a mnemonic and an addressing
mode that have a row, and the number of operand bytes of each mode (R50, R51). The constructors of `Instr` are the rows
themselves, so every `Instr` is well formed; the check bites on a written form that is not yet one. -/

namespace Sys2Proof

/-- The bytes after the opcode that belong to an instruction of the mode (R51; BRK's padding byte does not, R52). -/
def Mode.operandLength : Mode → Nat
  | .implied | .accumulator | .brk => 0
  | .immediate | .zeroPage | .zeroPageX | .zeroPageY | .relative | .indexedIndirect | .indirectIndexed => 1
  | .absolute | .absoluteX | .absoluteY | .indirect => 2

/-- The addressing modes in which a mnemonic has a row of the opcode map (R56, R57). -/
def modesOf : Mnemonic → List Mode
  | .adc => [.indexedIndirect, .zeroPage, .immediate, .absolute, .indirectIndexed, .zeroPageX, .absoluteY, .absoluteX]
  | .and => [.indexedIndirect, .zeroPage, .immediate, .absolute, .indirectIndexed, .zeroPageX, .absoluteY, .absoluteX]
  | .asl => [.zeroPage, .accumulator, .absolute, .zeroPageX, .absoluteX]
  | .bcc => [.relative]
  | .bcs => [.relative]
  | .beq => [.relative]
  | .bit => [.zeroPage, .absolute]
  | .bmi => [.relative]
  | .bne => [.relative]
  | .bpl => [.relative]
  | .brk => [.brk]
  | .bvc => [.relative]
  | .bvs => [.relative]
  | .clc => [.implied]
  | .cld => [.implied]
  | .cli => [.implied]
  | .clv => [.implied]
  | .cmp => [.indexedIndirect, .zeroPage, .immediate, .absolute, .indirectIndexed, .zeroPageX, .absoluteY, .absoluteX]
  | .cpx => [.immediate, .zeroPage, .absolute]
  | .cpy => [.immediate, .zeroPage, .absolute]
  | .dcp => [.indexedIndirect, .zeroPage, .absolute, .indirectIndexed, .zeroPageX, .absoluteY, .absoluteX]
  | .dec => [.zeroPage, .absolute, .zeroPageX, .absoluteX]
  | .dex => [.implied]
  | .dey => [.implied]
  | .eor => [.indexedIndirect, .zeroPage, .immediate, .absolute, .indirectIndexed, .zeroPageX, .absoluteY, .absoluteX]
  | .inc => [.zeroPage, .absolute, .zeroPageX, .absoluteX]
  | .inx => [.implied]
  | .iny => [.implied]
  | .isb => [.indexedIndirect, .zeroPage, .absolute, .indirectIndexed, .zeroPageX, .absoluteY, .absoluteX]
  | .jmp => [.absolute, .indirect]
  | .jsr => [.absolute]
  | .lae => [.absoluteY]
  | .lax => [.indexedIndirect, .zeroPage, .absolute, .indirectIndexed, .zeroPageY, .absoluteY]
  | .lda => [.indexedIndirect, .zeroPage, .immediate, .absolute, .indirectIndexed, .zeroPageX, .absoluteY, .absoluteX]
  | .ldx => [.immediate, .zeroPage, .absolute, .zeroPageY, .absoluteY]
  | .ldy => [.immediate, .zeroPage, .absolute, .zeroPageX, .absoluteX]
  | .lsr => [.zeroPage, .accumulator, .absolute, .zeroPageX, .absoluteX]
  | .nop => [.zeroPage, .absolute, .zeroPageX, .absoluteX, .implied]
  | .ora => [.indexedIndirect, .zeroPage, .immediate, .absolute, .indirectIndexed, .zeroPageX, .absoluteY, .absoluteX]
  | .pha => [.implied]
  | .php => [.implied]
  | .pla => [.implied]
  | .plp => [.implied]
  | .rla => [.indexedIndirect, .zeroPage, .absolute, .indirectIndexed, .zeroPageX, .absoluteY, .absoluteX]
  | .rol => [.zeroPage, .accumulator, .absolute, .zeroPageX, .absoluteX]
  | .ror => [.zeroPage, .accumulator, .absolute, .zeroPageX, .absoluteX]
  | .rra => [.indexedIndirect, .zeroPage, .absolute, .indirectIndexed, .zeroPageX, .absoluteY, .absoluteX]
  | .rti => [.implied]
  | .rts => [.implied]
  | .sax => [.indexedIndirect, .zeroPage, .absolute, .zeroPageY]
  | .sbc => [.indexedIndirect, .zeroPage, .immediate, .absolute, .indirectIndexed, .zeroPageX, .absoluteY, .absoluteX]
  | .sec => [.implied]
  | .sed => [.implied]
  | .sei => [.implied]
  | .sha => [.indirectIndexed, .absoluteY]
  | .shs => [.absoluteY]
  | .shx => [.absoluteY]
  | .shy => [.absoluteX]
  | .slo => [.indexedIndirect, .zeroPage, .absolute, .indirectIndexed, .zeroPageX, .absoluteY, .absoluteX]
  | .sre => [.indexedIndirect, .zeroPage, .absolute, .indirectIndexed, .zeroPageX, .absoluteY, .absoluteX]
  | .sta => [.indexedIndirect, .zeroPage, .absolute, .indirectIndexed, .zeroPageX, .absoluteY, .absoluteX]
  | .stx => [.zeroPage, .absolute, .zeroPageY]
  | .sty => [.zeroPage, .absolute, .zeroPageX]
  | .tax => [.implied]
  | .tay => [.implied]
  | .tsx => [.implied]
  | .txa => [.implied]
  | .txs => [.implied]
  | .tya => [.implied]

/-- Does the pair of mnemonic and mode have an opcode (R57, R62)? -/
def rowExists (mn : Mnemonic) (md : Mode) : Bool := (modesOf mn).contains md

/-- An instruction as it is written: a mnemonic, an addressing mode and operand bytes, low byte first. -/
structure Written where
  mnemonic : Mnemonic
  mode : Mode
  operands : List Byte
deriving DecidableEq, Repr

/-- The two checks on a written instruction: the pair exists (R57, R62), and it has its mode's operand bytes (R50, R51). -/
def Written.wellFormed (x : Written) : Bool :=
  rowExists x.mnemonic x.mode && x.operands.length == x.mode.operandLength

/-- The mnemonic of a row (R56). -/
def Instr.mnemonic : Instr → Mnemonic
  | .adcIndX _ | .adcZp _ | .adcImm _ | .adcAbs _ | .adcIndY _ | .adcZpX _ | .adcAbsY _ | .adcAbsX _ => .adc
  | .andIndX _ | .andZp _ | .andImm _ | .andAbs _ | .andIndY _ | .andZpX _ | .andAbsY _ | .andAbsX _ => .and
  | .aslZp _ | .aslAcc | .aslAbs _ | .aslZpX _ | .aslAbsX _ => .asl
  | .bcc _ => .bcc
  | .bcs _ => .bcs
  | .beq _ => .beq
  | .bitZp _ | .bitAbs _ => .bit
  | .bmi _ => .bmi
  | .bne _ => .bne
  | .bpl _ => .bpl
  | .brk => .brk
  | .bvc _ => .bvc
  | .bvs _ => .bvs
  | .clc => .clc
  | .cld => .cld
  | .cli => .cli
  | .clv => .clv
  | .cmpIndX _ | .cmpZp _ | .cmpImm _ | .cmpAbs _ | .cmpIndY _ | .cmpZpX _ | .cmpAbsY _ | .cmpAbsX _ => .cmp
  | .cpxImm _ | .cpxZp _ | .cpxAbs _ => .cpx
  | .cpyImm _ | .cpyZp _ | .cpyAbs _ => .cpy
  | .dcpIndX _ | .dcpZp _ | .dcpAbs _ | .dcpIndY _ | .dcpZpX _ | .dcpAbsY _ | .dcpAbsX _ => .dcp
  | .decZp _ | .decAbs _ | .decZpX _ | .decAbsX _ => .dec
  | .dex => .dex
  | .dey => .dey
  | .eorIndX _ | .eorZp _ | .eorImm _ | .eorAbs _ | .eorIndY _ | .eorZpX _ | .eorAbsY _ | .eorAbsX _ => .eor
  | .incZp _ | .incAbs _ | .incZpX _ | .incAbsX _ => .inc
  | .inx => .inx
  | .iny => .iny
  | .isbIndX _ | .isbZp _ | .isbAbs _ | .isbIndY _ | .isbZpX _ | .isbAbsY _ | .isbAbsX _ => .isb
  | .jmpAbs _ | .jmpInd _ => .jmp
  | .jsr _ => .jsr
  | .laeAbsY _ => .lae
  | .laxIndX _ | .laxZp _ | .laxAbs _ | .laxIndY _ | .laxZpY _ | .laxAbsY _ => .lax
  | .ldaIndX _ | .ldaZp _ | .ldaImm _ | .ldaAbs _ | .ldaIndY _ | .ldaZpX _ | .ldaAbsY _ | .ldaAbsX _ => .lda
  | .ldxImm _ | .ldxZp _ | .ldxAbs _ | .ldxZpY _ | .ldxAbsY _ => .ldx
  | .ldyImm _ | .ldyZp _ | .ldyAbs _ | .ldyZpX _ | .ldyAbsX _ => .ldy
  | .lsrZp _ | .lsrAcc | .lsrAbs _ | .lsrZpX _ | .lsrAbsX _ => .lsr
  | .nopZp04 _ | .nopAbs _ | .nopZpX14 _ | .nopAbsX1C _ | .nopZpX34 _ | .nopAbsX3C _ | .nopZp44 _ | .nopZpX54 _
  | .nopAbsX5C _ | .nopZp64 _ | .nopZpX74 _ | .nopAbsX7C _ | .nopZpXD4 _ | .nopAbsXDC _ | .nop | .nopZpXF4 _
  | .nopAbsXFC _ => .nop
  | .oraIndX _ | .oraZp _ | .oraImm _ | .oraAbs _ | .oraIndY _ | .oraZpX _ | .oraAbsY _ | .oraAbsX _ => .ora
  | .pha => .pha
  | .php => .php
  | .pla => .pla
  | .plp => .plp
  | .rlaIndX _ | .rlaZp _ | .rlaAbs _ | .rlaIndY _ | .rlaZpX _ | .rlaAbsY _ | .rlaAbsX _ => .rla
  | .rolZp _ | .rolAcc | .rolAbs _ | .rolZpX _ | .rolAbsX _ => .rol
  | .rorZp _ | .rorAcc | .rorAbs _ | .rorZpX _ | .rorAbsX _ => .ror
  | .rraIndX _ | .rraZp _ | .rraAbs _ | .rraIndY _ | .rraZpX _ | .rraAbsY _ | .rraAbsX _ => .rra
  | .rti => .rti
  | .rts => .rts
  | .saxIndX _ | .saxZp _ | .saxAbs _ | .saxZpY _ => .sax
  | .sbcIndX _ | .sbcZp _ | .sbcImm _ | .sbcAbs _ | .sbcIndY _ | .sbcZpX _ | .sbcAbsY _ | .sbcAbsX _ => .sbc
  | .sec => .sec
  | .sed => .sed
  | .sei => .sei
  | .shaIndY _ | .shaAbsY _ => .sha
  | .shsAbsY _ => .shs
  | .shxAbsY _ => .shx
  | .shyAbsX _ => .shy
  | .sloIndX _ | .sloZp _ | .sloAbs _ | .sloIndY _ | .sloZpX _ | .sloAbsY _ | .sloAbsX _ => .slo
  | .sreIndX _ | .sreZp _ | .sreAbs _ | .sreIndY _ | .sreZpX _ | .sreAbsY _ | .sreAbsX _ => .sre
  | .staIndX _ | .staZp _ | .staAbs _ | .staIndY _ | .staZpX _ | .staAbsY _ | .staAbsX _ => .sta
  | .stxZp _ | .stxAbs _ | .stxZpY _ => .stx
  | .styZp _ | .styAbs _ | .styZpX _ => .sty
  | .tax => .tax
  | .tay => .tay
  | .tsx => .tsx
  | .txa => .txa
  | .txs => .txs
  | .tya => .tya

/-- The addressing mode of a row (R51, R56). -/
def Instr.mode : Instr → Mode
  | .brk => .brk
  | .oraIndX _ | .sloIndX _ | .andIndX _ | .rlaIndX _ | .eorIndX _ | .sreIndX _ | .adcIndX _ | .rraIndX _
  | .staIndX _ | .saxIndX _ | .ldaIndX _ | .laxIndX _ | .cmpIndX _ | .dcpIndX _ | .sbcIndX _ | .isbIndX _ => .indexedIndirect
  | .nopZp04 _ | .oraZp _ | .aslZp _ | .sloZp _ | .bitZp _ | .andZp _ | .rolZp _ | .rlaZp _ | .nopZp44 _ | .eorZp _
  | .lsrZp _ | .sreZp _ | .nopZp64 _ | .adcZp _ | .rorZp _ | .rraZp _ | .styZp _ | .staZp _ | .stxZp _ | .saxZp _
  | .ldyZp _ | .ldaZp _ | .ldxZp _ | .laxZp _ | .cpyZp _ | .cmpZp _ | .decZp _ | .dcpZp _ | .cpxZp _ | .sbcZp _
  | .incZp _ | .isbZp _ => .zeroPage
  | .php | .clc | .plp | .sec | .rti | .pha | .cli | .rts | .pla | .sei | .dey | .txa | .tya | .txs | .tay | .tax
  | .clv | .tsx | .iny | .dex | .cld | .inx | .nop | .sed => .implied
  | .oraImm _ | .andImm _ | .eorImm _ | .adcImm _ | .ldyImm _ | .ldxImm _ | .ldaImm _ | .cpyImm _ | .cmpImm _
  | .cpxImm _ | .sbcImm _ => .immediate
  | .aslAcc | .rolAcc | .lsrAcc | .rorAcc => .accumulator
  | .nopAbs _ | .oraAbs _ | .aslAbs _ | .sloAbs _ | .jsr _ | .bitAbs _ | .andAbs _ | .rolAbs _ | .rlaAbs _
  | .jmpAbs _ | .eorAbs _ | .lsrAbs _ | .sreAbs _ | .adcAbs _ | .rorAbs _ | .rraAbs _ | .styAbs _ | .staAbs _
  | .stxAbs _ | .saxAbs _ | .ldyAbs _ | .ldaAbs _ | .ldxAbs _ | .laxAbs _ | .cpyAbs _ | .cmpAbs _ | .decAbs _
  | .dcpAbs _ | .cpxAbs _ | .sbcAbs _ | .incAbs _ | .isbAbs _ => .absolute
  | .bpl _ | .bmi _ | .bvc _ | .bvs _ | .bcc _ | .bcs _ | .bne _ | .beq _ => .relative
  | .oraIndY _ | .sloIndY _ | .andIndY _ | .rlaIndY _ | .eorIndY _ | .sreIndY _ | .adcIndY _ | .rraIndY _
  | .staIndY _ | .shaIndY _ | .ldaIndY _ | .laxIndY _ | .cmpIndY _ | .dcpIndY _ | .sbcIndY _ | .isbIndY _ => .indirectIndexed
  | .nopZpX14 _ | .oraZpX _ | .aslZpX _ | .sloZpX _ | .nopZpX34 _ | .andZpX _ | .rolZpX _ | .rlaZpX _ | .nopZpX54 _
  | .eorZpX _ | .lsrZpX _ | .sreZpX _ | .nopZpX74 _ | .adcZpX _ | .rorZpX _ | .rraZpX _ | .styZpX _ | .staZpX _
  | .ldyZpX _ | .ldaZpX _ | .nopZpXD4 _ | .cmpZpX _ | .decZpX _ | .dcpZpX _ | .nopZpXF4 _ | .sbcZpX _ | .incZpX _
  | .isbZpX _ => .zeroPageX
  | .oraAbsY _ | .sloAbsY _ | .andAbsY _ | .rlaAbsY _ | .eorAbsY _ | .sreAbsY _ | .adcAbsY _ | .rraAbsY _
  | .staAbsY _ | .shsAbsY _ | .shxAbsY _ | .shaAbsY _ | .ldaAbsY _ | .laeAbsY _ | .ldxAbsY _ | .laxAbsY _
  | .cmpAbsY _ | .dcpAbsY _ | .sbcAbsY _ | .isbAbsY _ => .absoluteY
  | .nopAbsX1C _ | .oraAbsX _ | .aslAbsX _ | .sloAbsX _ | .nopAbsX3C _ | .andAbsX _ | .rolAbsX _ | .rlaAbsX _
  | .nopAbsX5C _ | .eorAbsX _ | .lsrAbsX _ | .sreAbsX _ | .nopAbsX7C _ | .adcAbsX _ | .rorAbsX _ | .rraAbsX _
  | .shyAbsX _ | .staAbsX _ | .ldyAbsX _ | .ldaAbsX _ | .nopAbsXDC _ | .cmpAbsX _ | .decAbsX _ | .dcpAbsX _
  | .nopAbsXFC _ | .sbcAbsX _ | .incAbsX _ | .isbAbsX _ => .absoluteX
  | .jmpInd _ => .indirect
  | .stxZpY _ | .saxZpY _ | .ldxZpY _ | .laxZpY _ => .zeroPageY

/-- The operand bytes of an instruction in ascending address order, the low byte of an address first (R34, R53). -/
def Instr.operandBytes : Instr → List Byte
  | .brk | .php | .aslAcc | .clc | .plp | .rolAcc | .sec | .rti | .pha | .lsrAcc | .cli | .rts | .pla | .rorAcc
  | .sei | .dey | .txa | .tya | .txs | .tay | .tax | .clv | .tsx | .iny | .dex | .cld | .inx | .nop | .sed => []
  | .oraIndX b | .sloIndX b | .nopZp04 b | .oraZp b | .aslZp b | .sloZp b | .oraImm b | .bpl b | .oraIndY b
  | .sloIndY b | .nopZpX14 b | .oraZpX b | .aslZpX b | .sloZpX b | .andIndX b | .rlaIndX b | .bitZp b | .andZp b
  | .rolZp b | .rlaZp b | .andImm b | .bmi b | .andIndY b | .rlaIndY b | .nopZpX34 b | .andZpX b | .rolZpX b
  | .rlaZpX b | .eorIndX b | .sreIndX b | .nopZp44 b | .eorZp b | .lsrZp b | .sreZp b | .eorImm b | .bvc b
  | .eorIndY b | .sreIndY b | .nopZpX54 b | .eorZpX b | .lsrZpX b | .sreZpX b | .adcIndX b | .rraIndX b | .nopZp64 b
  | .adcZp b | .rorZp b | .rraZp b | .adcImm b | .bvs b | .adcIndY b | .rraIndY b | .nopZpX74 b | .adcZpX b
  | .rorZpX b | .rraZpX b | .staIndX b | .saxIndX b | .styZp b | .staZp b | .stxZp b | .saxZp b | .bcc b
  | .staIndY b | .shaIndY b | .styZpX b | .staZpX b | .stxZpY b | .saxZpY b | .ldyImm b | .ldaIndX b | .ldxImm b
  | .laxIndX b | .ldyZp b | .ldaZp b | .ldxZp b | .laxZp b | .ldaImm b | .bcs b | .ldaIndY b | .laxIndY b
  | .ldyZpX b | .ldaZpX b | .ldxZpY b | .laxZpY b | .cpyImm b | .cmpIndX b | .dcpIndX b | .cpyZp b | .cmpZp b
  | .decZp b | .dcpZp b | .cmpImm b | .bne b | .cmpIndY b | .dcpIndY b | .nopZpXD4 b | .cmpZpX b | .decZpX b
  | .dcpZpX b | .cpxImm b | .sbcIndX b | .isbIndX b | .cpxZp b | .sbcZp b | .incZp b | .isbZp b | .sbcImm b | .beq b
  | .sbcIndY b | .isbIndY b | .nopZpXF4 b | .sbcZpX b | .incZpX b | .isbZpX b => [b]
  | .nopAbs a | .oraAbs a | .aslAbs a | .sloAbs a | .oraAbsY a | .sloAbsY a | .nopAbsX1C a | .oraAbsX a | .aslAbsX a
  | .sloAbsX a | .jsr a | .bitAbs a | .andAbs a | .rolAbs a | .rlaAbs a | .andAbsY a | .rlaAbsY a | .nopAbsX3C a
  | .andAbsX a | .rolAbsX a | .rlaAbsX a | .jmpAbs a | .eorAbs a | .lsrAbs a | .sreAbs a | .eorAbsY a | .sreAbsY a
  | .nopAbsX5C a | .eorAbsX a | .lsrAbsX a | .sreAbsX a | .jmpInd a | .adcAbs a | .rorAbs a | .rraAbs a | .adcAbsY a
  | .rraAbsY a | .nopAbsX7C a | .adcAbsX a | .rorAbsX a | .rraAbsX a | .styAbs a | .staAbs a | .stxAbs a | .saxAbs a
  | .staAbsY a | .shsAbsY a | .shyAbsX a | .staAbsX a | .shxAbsY a | .shaAbsY a | .ldyAbs a | .ldaAbs a | .ldxAbs a
  | .laxAbs a | .ldaAbsY a | .laeAbsY a | .ldyAbsX a | .ldaAbsX a | .ldxAbsY a | .laxAbsY a | .cpyAbs a | .cmpAbs a
  | .decAbs a | .dcpAbs a | .cmpAbsY a | .dcpAbsY a | .nopAbsXDC a | .cmpAbsX a | .decAbsX a | .dcpAbsX a
  | .cpxAbs a | .sbcAbs a | .incAbs a | .isbAbs a | .sbcAbsY a | .isbAbsY a | .nopAbsXFC a | .sbcAbsX a | .incAbsX a
  | .isbAbsX a => [Machine.lowByte a, Machine.highByte a]

/-- The written form of an instruction. -/
def Instr.written (i : Instr) : Written := ⟨i.mnemonic, i.mode, i.operandBytes⟩

/-- Is the instruction's written form one that has a row? -/
def Instr.wellFormed (i : Instr) : Bool := i.written.wellFormed

end Sys2Proof
end

