-- ==== Sys2Proof/Decode.lean ====
section
/-! DEFINITION. The decoder and the encoder (spec/30_encoding.md R50 to R58): the opcode byte alone selects the row and the
length; the operand bytes follow, low byte first. The 31 bytes without a row are rejected by name (R58). -/

namespace Sys2Proof

/-- Why bytes are no instruction. -/
inductive DecodeError where
  /-- The opcode byte is one of the 31 without a row (R58). -/
  | unlistedOpcode (b : Byte)
  /-- The list ends before the row's length is reached (R50); a fetch, which always supplies three bytes, never meets it. -/
  | truncated
deriving DecidableEq, Repr

/-- What the row of an opcode asks for after the opcode byte (R50, R51): nothing, one byte, or a 16-bit address. -/
inductive Shape where
  | alone (i : Instr)
  | byte (f : Byte → Instr)
  | word (f : Addr → Instr)

/-- Row `$00` to `$0F` of the opcode map, by the low digit of the opcode (R56). -/
def opcodeRow0 : Nat → Option Shape
  | 0 => some (.alone .brk)
  | 1 => some (.byte .oraIndX)
  | 3 => some (.byte .sloIndX)
  | 4 => some (.byte .nopZp04)
  | 5 => some (.byte .oraZp)
  | 6 => some (.byte .aslZp)
  | 7 => some (.byte .sloZp)
  | 8 => some (.alone .php)
  | 9 => some (.byte .oraImm)
  | 10 => some (.alone .aslAcc)
  | 12 => some (.word .nopAbs)
  | 13 => some (.word .oraAbs)
  | 14 => some (.word .aslAbs)
  | 15 => some (.word .sloAbs)
  | _ => none

/-- Row `$10` to `$1F` of the opcode map, by the low digit of the opcode (R56). -/
def opcodeRow1 : Nat → Option Shape
  | 0 => some (.byte .bpl)
  | 1 => some (.byte .oraIndY)
  | 3 => some (.byte .sloIndY)
  | 4 => some (.byte .nopZpX14)
  | 5 => some (.byte .oraZpX)
  | 6 => some (.byte .aslZpX)
  | 7 => some (.byte .sloZpX)
  | 8 => some (.alone .clc)
  | 9 => some (.word .oraAbsY)
  | 11 => some (.word .sloAbsY)
  | 12 => some (.word .nopAbsX1C)
  | 13 => some (.word .oraAbsX)
  | 14 => some (.word .aslAbsX)
  | 15 => some (.word .sloAbsX)
  | _ => none

/-- Row `$20` to `$2F` of the opcode map, by the low digit of the opcode (R56). -/
def opcodeRow2 : Nat → Option Shape
  | 0 => some (.word .jsr)
  | 1 => some (.byte .andIndX)
  | 3 => some (.byte .rlaIndX)
  | 4 => some (.byte .bitZp)
  | 5 => some (.byte .andZp)
  | 6 => some (.byte .rolZp)
  | 7 => some (.byte .rlaZp)
  | 8 => some (.alone .plp)
  | 9 => some (.byte .andImm)
  | 10 => some (.alone .rolAcc)
  | 12 => some (.word .bitAbs)
  | 13 => some (.word .andAbs)
  | 14 => some (.word .rolAbs)
  | 15 => some (.word .rlaAbs)
  | _ => none

/-- Row `$30` to `$3F` of the opcode map, by the low digit of the opcode (R56). -/
def opcodeRow3 : Nat → Option Shape
  | 0 => some (.byte .bmi)
  | 1 => some (.byte .andIndY)
  | 3 => some (.byte .rlaIndY)
  | 4 => some (.byte .nopZpX34)
  | 5 => some (.byte .andZpX)
  | 6 => some (.byte .rolZpX)
  | 7 => some (.byte .rlaZpX)
  | 8 => some (.alone .sec)
  | 9 => some (.word .andAbsY)
  | 11 => some (.word .rlaAbsY)
  | 12 => some (.word .nopAbsX3C)
  | 13 => some (.word .andAbsX)
  | 14 => some (.word .rolAbsX)
  | 15 => some (.word .rlaAbsX)
  | _ => none

/-- Row `$40` to `$4F` of the opcode map, by the low digit of the opcode (R56). -/
def opcodeRow4 : Nat → Option Shape
  | 0 => some (.alone .rti)
  | 1 => some (.byte .eorIndX)
  | 3 => some (.byte .sreIndX)
  | 4 => some (.byte .nopZp44)
  | 5 => some (.byte .eorZp)
  | 6 => some (.byte .lsrZp)
  | 7 => some (.byte .sreZp)
  | 8 => some (.alone .pha)
  | 9 => some (.byte .eorImm)
  | 10 => some (.alone .lsrAcc)
  | 12 => some (.word .jmpAbs)
  | 13 => some (.word .eorAbs)
  | 14 => some (.word .lsrAbs)
  | 15 => some (.word .sreAbs)
  | _ => none

/-- Row `$50` to `$5F` of the opcode map, by the low digit of the opcode (R56). -/
def opcodeRow5 : Nat → Option Shape
  | 0 => some (.byte .bvc)
  | 1 => some (.byte .eorIndY)
  | 3 => some (.byte .sreIndY)
  | 4 => some (.byte .nopZpX54)
  | 5 => some (.byte .eorZpX)
  | 6 => some (.byte .lsrZpX)
  | 7 => some (.byte .sreZpX)
  | 8 => some (.alone .cli)
  | 9 => some (.word .eorAbsY)
  | 11 => some (.word .sreAbsY)
  | 12 => some (.word .nopAbsX5C)
  | 13 => some (.word .eorAbsX)
  | 14 => some (.word .lsrAbsX)
  | 15 => some (.word .sreAbsX)
  | _ => none

/-- Row `$60` to `$6F` of the opcode map, by the low digit of the opcode (R56). -/
def opcodeRow6 : Nat → Option Shape
  | 0 => some (.alone .rts)
  | 1 => some (.byte .adcIndX)
  | 3 => some (.byte .rraIndX)
  | 4 => some (.byte .nopZp64)
  | 5 => some (.byte .adcZp)
  | 6 => some (.byte .rorZp)
  | 7 => some (.byte .rraZp)
  | 8 => some (.alone .pla)
  | 9 => some (.byte .adcImm)
  | 10 => some (.alone .rorAcc)
  | 12 => some (.word .jmpInd)
  | 13 => some (.word .adcAbs)
  | 14 => some (.word .rorAbs)
  | 15 => some (.word .rraAbs)
  | _ => none

/-- Row `$70` to `$7F` of the opcode map, by the low digit of the opcode (R56). -/
def opcodeRow7 : Nat → Option Shape
  | 0 => some (.byte .bvs)
  | 1 => some (.byte .adcIndY)
  | 3 => some (.byte .rraIndY)
  | 4 => some (.byte .nopZpX74)
  | 5 => some (.byte .adcZpX)
  | 6 => some (.byte .rorZpX)
  | 7 => some (.byte .rraZpX)
  | 8 => some (.alone .sei)
  | 9 => some (.word .adcAbsY)
  | 11 => some (.word .rraAbsY)
  | 12 => some (.word .nopAbsX7C)
  | 13 => some (.word .adcAbsX)
  | 14 => some (.word .rorAbsX)
  | 15 => some (.word .rraAbsX)
  | _ => none

/-- Row `$80` to `$8F` of the opcode map, by the low digit of the opcode (R56). -/
def opcodeRow8 : Nat → Option Shape
  | 1 => some (.byte .staIndX)
  | 3 => some (.byte .saxIndX)
  | 4 => some (.byte .styZp)
  | 5 => some (.byte .staZp)
  | 6 => some (.byte .stxZp)
  | 7 => some (.byte .saxZp)
  | 8 => some (.alone .dey)
  | 10 => some (.alone .txa)
  | 12 => some (.word .styAbs)
  | 13 => some (.word .staAbs)
  | 14 => some (.word .stxAbs)
  | 15 => some (.word .saxAbs)
  | _ => none

/-- Row `$90` to `$9F` of the opcode map, by the low digit of the opcode (R56). -/
def opcodeRow9 : Nat → Option Shape
  | 0 => some (.byte .bcc)
  | 1 => some (.byte .staIndY)
  | 3 => some (.byte .shaIndY)
  | 4 => some (.byte .styZpX)
  | 5 => some (.byte .staZpX)
  | 6 => some (.byte .stxZpY)
  | 7 => some (.byte .saxZpY)
  | 8 => some (.alone .tya)
  | 9 => some (.word .staAbsY)
  | 10 => some (.alone .txs)
  | 11 => some (.word .shsAbsY)
  | 12 => some (.word .shyAbsX)
  | 13 => some (.word .staAbsX)
  | 14 => some (.word .shxAbsY)
  | 15 => some (.word .shaAbsY)
  | _ => none

/-- Row `$A0` to `$AF` of the opcode map, by the low digit of the opcode (R56). -/
def opcodeRowA : Nat → Option Shape
  | 0 => some (.byte .ldyImm)
  | 1 => some (.byte .ldaIndX)
  | 2 => some (.byte .ldxImm)
  | 3 => some (.byte .laxIndX)
  | 4 => some (.byte .ldyZp)
  | 5 => some (.byte .ldaZp)
  | 6 => some (.byte .ldxZp)
  | 7 => some (.byte .laxZp)
  | 8 => some (.alone .tay)
  | 9 => some (.byte .ldaImm)
  | 10 => some (.alone .tax)
  | 12 => some (.word .ldyAbs)
  | 13 => some (.word .ldaAbs)
  | 14 => some (.word .ldxAbs)
  | 15 => some (.word .laxAbs)
  | _ => none

/-- Row `$B0` to `$BF` of the opcode map, by the low digit of the opcode (R56). -/
def opcodeRowB : Nat → Option Shape
  | 0 => some (.byte .bcs)
  | 1 => some (.byte .ldaIndY)
  | 3 => some (.byte .laxIndY)
  | 4 => some (.byte .ldyZpX)
  | 5 => some (.byte .ldaZpX)
  | 6 => some (.byte .ldxZpY)
  | 7 => some (.byte .laxZpY)
  | 8 => some (.alone .clv)
  | 9 => some (.word .ldaAbsY)
  | 10 => some (.alone .tsx)
  | 11 => some (.word .laeAbsY)
  | 12 => some (.word .ldyAbsX)
  | 13 => some (.word .ldaAbsX)
  | 14 => some (.word .ldxAbsY)
  | 15 => some (.word .laxAbsY)
  | _ => none

/-- Row `$C0` to `$CF` of the opcode map, by the low digit of the opcode (R56). -/
def opcodeRowC : Nat → Option Shape
  | 0 => some (.byte .cpyImm)
  | 1 => some (.byte .cmpIndX)
  | 3 => some (.byte .dcpIndX)
  | 4 => some (.byte .cpyZp)
  | 5 => some (.byte .cmpZp)
  | 6 => some (.byte .decZp)
  | 7 => some (.byte .dcpZp)
  | 8 => some (.alone .iny)
  | 9 => some (.byte .cmpImm)
  | 10 => some (.alone .dex)
  | 12 => some (.word .cpyAbs)
  | 13 => some (.word .cmpAbs)
  | 14 => some (.word .decAbs)
  | 15 => some (.word .dcpAbs)
  | _ => none

/-- Row `$D0` to `$DF` of the opcode map, by the low digit of the opcode (R56). -/
def opcodeRowD : Nat → Option Shape
  | 0 => some (.byte .bne)
  | 1 => some (.byte .cmpIndY)
  | 3 => some (.byte .dcpIndY)
  | 4 => some (.byte .nopZpXD4)
  | 5 => some (.byte .cmpZpX)
  | 6 => some (.byte .decZpX)
  | 7 => some (.byte .dcpZpX)
  | 8 => some (.alone .cld)
  | 9 => some (.word .cmpAbsY)
  | 11 => some (.word .dcpAbsY)
  | 12 => some (.word .nopAbsXDC)
  | 13 => some (.word .cmpAbsX)
  | 14 => some (.word .decAbsX)
  | 15 => some (.word .dcpAbsX)
  | _ => none

/-- Row `$E0` to `$EF` of the opcode map, by the low digit of the opcode (R56). -/
def opcodeRowE : Nat → Option Shape
  | 0 => some (.byte .cpxImm)
  | 1 => some (.byte .sbcIndX)
  | 3 => some (.byte .isbIndX)
  | 4 => some (.byte .cpxZp)
  | 5 => some (.byte .sbcZp)
  | 6 => some (.byte .incZp)
  | 7 => some (.byte .isbZp)
  | 8 => some (.alone .inx)
  | 9 => some (.byte .sbcImm)
  | 10 => some (.alone .nop)
  | 12 => some (.word .cpxAbs)
  | 13 => some (.word .sbcAbs)
  | 14 => some (.word .incAbs)
  | 15 => some (.word .isbAbs)
  | _ => none

/-- Row `$F0` to `$FF` of the opcode map, by the low digit of the opcode (R56). -/
def opcodeRowF : Nat → Option Shape
  | 0 => some (.byte .beq)
  | 1 => some (.byte .sbcIndY)
  | 3 => some (.byte .isbIndY)
  | 4 => some (.byte .nopZpXF4)
  | 5 => some (.byte .sbcZpX)
  | 6 => some (.byte .incZpX)
  | 7 => some (.byte .isbZpX)
  | 8 => some (.alone .sed)
  | 9 => some (.word .sbcAbsY)
  | 11 => some (.word .isbAbsY)
  | 12 => some (.word .nopAbsXFC)
  | 13 => some (.word .sbcAbsX)
  | 14 => some (.word .incAbsX)
  | 15 => some (.word .isbAbsX)
  | _ => none

/-- The opcode map (R56): the row of an opcode byte, or none for the 31 bytes of R58. -/
def opcodeMap (b : Byte) : Option Shape :=
  match b.toNat / 16 with
  | 0 => opcodeRow0 (b.toNat % 16)
  | 1 => opcodeRow1 (b.toNat % 16)
  | 2 => opcodeRow2 (b.toNat % 16)
  | 3 => opcodeRow3 (b.toNat % 16)
  | 4 => opcodeRow4 (b.toNat % 16)
  | 5 => opcodeRow5 (b.toNat % 16)
  | 6 => opcodeRow6 (b.toNat % 16)
  | 7 => opcodeRow7 (b.toNat % 16)
  | 8 => opcodeRow8 (b.toNat % 16)
  | 9 => opcodeRow9 (b.toNat % 16)
  | 10 => opcodeRowA (b.toNat % 16)
  | 11 => opcodeRowB (b.toNat % 16)
  | 12 => opcodeRowC (b.toNat % 16)
  | 13 => opcodeRowD (b.toNat % 16)
  | 14 => opcodeRowE (b.toNat % 16)
  | _ => opcodeRowF (b.toNat % 16)

/-- Decode the instruction at the head of a list of bytes, and give the rest of the list (R50, R53). -/
def decode : List Byte → Except DecodeError (Instr × List Byte)
  | [] => .error .truncated
  | b :: rest =>
    match opcodeMap b with
    | none => .error (.unlistedOpcode b)
    | some (.alone i) => .ok (i, rest)
    | some (.byte f) =>
      match rest with
      | x :: rest' => .ok (f x, rest')
      | [] => .error .truncated
    | some (.word f) =>
      match rest with
      | lo :: hi :: rest' => .ok (f (Machine.addrOf hi lo), rest')
      | _ => .error .truncated

/-- The opcode byte of a row (R56). -/
def Instr.opcode : Instr → Byte
  | .brk => 0x00
  | .oraIndX _ => 0x01
  | .sloIndX _ => 0x03
  | .nopZp04 _ => 0x04
  | .oraZp _ => 0x05
  | .aslZp _ => 0x06
  | .sloZp _ => 0x07
  | .php => 0x08
  | .oraImm _ => 0x09
  | .aslAcc => 0x0A
  | .nopAbs _ => 0x0C
  | .oraAbs _ => 0x0D
  | .aslAbs _ => 0x0E
  | .sloAbs _ => 0x0F
  | .bpl _ => 0x10
  | .oraIndY _ => 0x11
  | .sloIndY _ => 0x13
  | .nopZpX14 _ => 0x14
  | .oraZpX _ => 0x15
  | .aslZpX _ => 0x16
  | .sloZpX _ => 0x17
  | .clc => 0x18
  | .oraAbsY _ => 0x19
  | .sloAbsY _ => 0x1B
  | .nopAbsX1C _ => 0x1C
  | .oraAbsX _ => 0x1D
  | .aslAbsX _ => 0x1E
  | .sloAbsX _ => 0x1F
  | .jsr _ => 0x20
  | .andIndX _ => 0x21
  | .rlaIndX _ => 0x23
  | .bitZp _ => 0x24
  | .andZp _ => 0x25
  | .rolZp _ => 0x26
  | .rlaZp _ => 0x27
  | .plp => 0x28
  | .andImm _ => 0x29
  | .rolAcc => 0x2A
  | .bitAbs _ => 0x2C
  | .andAbs _ => 0x2D
  | .rolAbs _ => 0x2E
  | .rlaAbs _ => 0x2F
  | .bmi _ => 0x30
  | .andIndY _ => 0x31
  | .rlaIndY _ => 0x33
  | .nopZpX34 _ => 0x34
  | .andZpX _ => 0x35
  | .rolZpX _ => 0x36
  | .rlaZpX _ => 0x37
  | .sec => 0x38
  | .andAbsY _ => 0x39
  | .rlaAbsY _ => 0x3B
  | .nopAbsX3C _ => 0x3C
  | .andAbsX _ => 0x3D
  | .rolAbsX _ => 0x3E
  | .rlaAbsX _ => 0x3F
  | .rti => 0x40
  | .eorIndX _ => 0x41
  | .sreIndX _ => 0x43
  | .nopZp44 _ => 0x44
  | .eorZp _ => 0x45
  | .lsrZp _ => 0x46
  | .sreZp _ => 0x47
  | .pha => 0x48
  | .eorImm _ => 0x49
  | .lsrAcc => 0x4A
  | .jmpAbs _ => 0x4C
  | .eorAbs _ => 0x4D
  | .lsrAbs _ => 0x4E
  | .sreAbs _ => 0x4F
  | .bvc _ => 0x50
  | .eorIndY _ => 0x51
  | .sreIndY _ => 0x53
  | .nopZpX54 _ => 0x54
  | .eorZpX _ => 0x55
  | .lsrZpX _ => 0x56
  | .sreZpX _ => 0x57
  | .cli => 0x58
  | .eorAbsY _ => 0x59
  | .sreAbsY _ => 0x5B
  | .nopAbsX5C _ => 0x5C
  | .eorAbsX _ => 0x5D
  | .lsrAbsX _ => 0x5E
  | .sreAbsX _ => 0x5F
  | .rts => 0x60
  | .adcIndX _ => 0x61
  | .rraIndX _ => 0x63
  | .nopZp64 _ => 0x64
  | .adcZp _ => 0x65
  | .rorZp _ => 0x66
  | .rraZp _ => 0x67
  | .pla => 0x68
  | .adcImm _ => 0x69
  | .rorAcc => 0x6A
  | .jmpInd _ => 0x6C
  | .adcAbs _ => 0x6D
  | .rorAbs _ => 0x6E
  | .rraAbs _ => 0x6F
  | .bvs _ => 0x70
  | .adcIndY _ => 0x71
  | .rraIndY _ => 0x73
  | .nopZpX74 _ => 0x74
  | .adcZpX _ => 0x75
  | .rorZpX _ => 0x76
  | .rraZpX _ => 0x77
  | .sei => 0x78
  | .adcAbsY _ => 0x79
  | .rraAbsY _ => 0x7B
  | .nopAbsX7C _ => 0x7C
  | .adcAbsX _ => 0x7D
  | .rorAbsX _ => 0x7E
  | .rraAbsX _ => 0x7F
  | .staIndX _ => 0x81
  | .saxIndX _ => 0x83
  | .styZp _ => 0x84
  | .staZp _ => 0x85
  | .stxZp _ => 0x86
  | .saxZp _ => 0x87
  | .dey => 0x88
  | .txa => 0x8A
  | .styAbs _ => 0x8C
  | .staAbs _ => 0x8D
  | .stxAbs _ => 0x8E
  | .saxAbs _ => 0x8F
  | .bcc _ => 0x90
  | .staIndY _ => 0x91
  | .shaIndY _ => 0x93
  | .styZpX _ => 0x94
  | .staZpX _ => 0x95
  | .stxZpY _ => 0x96
  | .saxZpY _ => 0x97
  | .tya => 0x98
  | .staAbsY _ => 0x99
  | .txs => 0x9A
  | .shsAbsY _ => 0x9B
  | .shyAbsX _ => 0x9C
  | .staAbsX _ => 0x9D
  | .shxAbsY _ => 0x9E
  | .shaAbsY _ => 0x9F
  | .ldyImm _ => 0xA0
  | .ldaIndX _ => 0xA1
  | .ldxImm _ => 0xA2
  | .laxIndX _ => 0xA3
  | .ldyZp _ => 0xA4
  | .ldaZp _ => 0xA5
  | .ldxZp _ => 0xA6
  | .laxZp _ => 0xA7
  | .tay => 0xA8
  | .ldaImm _ => 0xA9
  | .tax => 0xAA
  | .ldyAbs _ => 0xAC
  | .ldaAbs _ => 0xAD
  | .ldxAbs _ => 0xAE
  | .laxAbs _ => 0xAF
  | .bcs _ => 0xB0
  | .ldaIndY _ => 0xB1
  | .laxIndY _ => 0xB3
  | .ldyZpX _ => 0xB4
  | .ldaZpX _ => 0xB5
  | .ldxZpY _ => 0xB6
  | .laxZpY _ => 0xB7
  | .clv => 0xB8
  | .ldaAbsY _ => 0xB9
  | .tsx => 0xBA
  | .laeAbsY _ => 0xBB
  | .ldyAbsX _ => 0xBC
  | .ldaAbsX _ => 0xBD
  | .ldxAbsY _ => 0xBE
  | .laxAbsY _ => 0xBF
  | .cpyImm _ => 0xC0
  | .cmpIndX _ => 0xC1
  | .dcpIndX _ => 0xC3
  | .cpyZp _ => 0xC4
  | .cmpZp _ => 0xC5
  | .decZp _ => 0xC6
  | .dcpZp _ => 0xC7
  | .iny => 0xC8
  | .cmpImm _ => 0xC9
  | .dex => 0xCA
  | .cpyAbs _ => 0xCC
  | .cmpAbs _ => 0xCD
  | .decAbs _ => 0xCE
  | .dcpAbs _ => 0xCF
  | .bne _ => 0xD0
  | .cmpIndY _ => 0xD1
  | .dcpIndY _ => 0xD3
  | .nopZpXD4 _ => 0xD4
  | .cmpZpX _ => 0xD5
  | .decZpX _ => 0xD6
  | .dcpZpX _ => 0xD7
  | .cld => 0xD8
  | .cmpAbsY _ => 0xD9
  | .dcpAbsY _ => 0xDB
  | .nopAbsXDC _ => 0xDC
  | .cmpAbsX _ => 0xDD
  | .decAbsX _ => 0xDE
  | .dcpAbsX _ => 0xDF
  | .cpxImm _ => 0xE0
  | .sbcIndX _ => 0xE1
  | .isbIndX _ => 0xE3
  | .cpxZp _ => 0xE4
  | .sbcZp _ => 0xE5
  | .incZp _ => 0xE6
  | .isbZp _ => 0xE7
  | .inx => 0xE8
  | .sbcImm _ => 0xE9
  | .nop => 0xEA
  | .cpxAbs _ => 0xEC
  | .sbcAbs _ => 0xED
  | .incAbs _ => 0xEE
  | .isbAbs _ => 0xEF
  | .beq _ => 0xF0
  | .sbcIndY _ => 0xF1
  | .isbIndY _ => 0xF3
  | .nopZpXF4 _ => 0xF4
  | .sbcZpX _ => 0xF5
  | .incZpX _ => 0xF6
  | .isbZpX _ => 0xF7
  | .sed => 0xF8
  | .sbcAbsY _ => 0xF9
  | .isbAbsY _ => 0xFB
  | .nopAbsXFC _ => 0xFC
  | .sbcAbsX _ => 0xFD
  | .incAbsX _ => 0xFE
  | .isbAbsX _ => 0xFF

/-- The bytes of an instruction in ascending address order: the opcode, then the operand bytes (R50, R51). -/
def encode (i : Instr) : List Byte := i.opcode :: i.operandBytes

/-- The bytes of a table word as the hardware stores them, the first at the lowest address: the low `nbits` bits of `w`, and
zeros above, up to the three bytes of the longest instruction (R50). -/
def wordBytes (nbits w : Nat) : List Byte :=
  [Machine.byteOfNat (w % 2 ^ nbits) 0, Machine.byteOfNat (w % 2 ^ nbits) 1, Machine.byteOfNat (w % 2 ^ nbits) 2]

/-- The instruction the decoder reads from an instruction whose bits are `w`. -/
def decodeTableWord (nbits w : Nat) : Option Instr :=
  match decode (wordBytes nbits w) with
  | .ok (i, _) => some i
  | .error _ => none

end Sys2Proof
end

