-- ==== Sys2Proof/Machine/Cycle.lean ====
section
/-! DEFINITION. The kinds of rows of the source's cycle tables: the numbered list of spec/47_microop_list.md R130 (the item numbers
stand in the docstrings) and the rows of the remaining tables (spec/43, 44, 45, 46). What each does stands in
Sys2Proof/Machine/Ops.lean. A row that fetches an operand byte carries that byte of the decoded instruction (log 10). -/

namespace Sys2Proof.Machine

/-- One row of a cycle table, which is one processor cycle with one bus access (R1). -/
inductive Cycle where
  /-- item 0: fetch opcode, increment PC -/
  | fetchOpcode
  /-- items 7 and 20: read next instruction byte (and throw it away) -/
  | readNext
  /-- item 1: read next instruction byte (and throw it away), increment PC -/
  | skipNext
  /-- items 2 and 17: push PCH on stack, decrement S -/
  | pushPch
  /-- items 3 and 18: push PCL on stack, decrement S -/
  | pushPcl
  /-- item 4: push P on stack with B set, decrement S -/
  | pushP
  /-- item 13: push A on stack, decrement S -/
  | pushA
  /-- item 5: fetch PCL from `$FFFE` (and I is set, R71) -/
  | fetchVectorLow
  /-- item 6: fetch PCH from `$FFFF` -/
  | fetchVectorHigh
  /-- item 8: increment S -/
  | incrementS
  /-- item 9: pull P from stack, increment S -/
  | pullPIncrementS
  /-- item 10: pull PCL from stack, increment S -/
  | pullPclIncrementS
  /-- item 11: pull PCH from stack -/
  | pullPch
  /-- item 12: increment PC -/
  | incrementPc
  /-- item 14 (first): pull A from stack -/
  | pullA
  /-- item 14 (second): pull P from stack -/
  | pullP
  /-- item 16: internal operation -/
  | internalOperation
  /-- items 15 and 22: fetch low byte of address, increment PC -/
  | fetchLow (b : Byte)
  /-- item 23: fetch high byte of address, increment PC -/
  | fetchHigh (b : Byte)
  /-- item 19 in JMP: copy low address byte to PCL, fetch high address byte to PCH -/
  | jumpHigh (b : Byte)
  /-- item 19 in JSR: the same row, with the byte that the bus gives AFTER the two pushes (R78, log 10) -/
  | jumpHighFromBus
  /-- item 21: fetch value, increment PC -/
  | fetchValue (b : Byte)
  /-- item 24: read from effective address -/
  | readEffective
  /-- item 25: write the value back to effective address -/
  | writeBack
  /-- item 26: write the new value to effective address -/
  | writeNew (m : Mnemonic)
  /-- item 27: write register to effective address -/
  | writeRegister (m : Mnemonic)
  /-- zero page modes, row 2: fetch address, increment PC -/
  | fetchZeroPage (b : Byte)
  /-- zero page indexed, row 3: read from address, add index register to it -/
  | addIndexZeroPage (i : Index)
  /-- absolute indexed, row 3: fetch high byte of address, add index register to low address byte, increment PC -/
  | fetchHighAddIndex (b : Byte) (i : Index)
  /-- absolute indexed row 4, indirect indexed row 5: read from effective address, fix the high byte -/
  | readFixHigh
  /-- rows 5+ and 6+ of the indexed Read tables: re-read, only if a page boundary was crossed -/
  | rereadIfCrossed
  /-- last row of the indexed Write tables: write to effective address -/
  | writeRegisterIndexed (m : Mnemonic)
  /-- zero-page pointer modes, row 2: fetch pointer address, increment PC -/
  | fetchPointer (b : Byte)
  /-- indexed indirect, row 3: read from the address, add X to it -/
  | addXToPointer
  /-- fetch effective address low -/
  | fetchEffectiveLow
  /-- indexed indirect, row 5: fetch effective address high -/
  | fetchEffectiveHigh
  /-- indirect indexed, row 4: fetch effective address high, add Y to low byte of effective address -/
  | fetchEffectiveHighAddY
  /-- relative, row 2: fetch operand, increment PC -/
  | fetchOperand (b : Byte)
  /-- relative, row 3 of a branch that is taken: add operand to PCL -/
  | addOperandIfTaken (b : Branch)
  /-- relative, row 4 of a branch to a different page: fix PCH -/
  | fixPchIfCrossed
  /-- absolute indirect, row 2: fetch pointer address low, increment PC -/
  | fetchPointerLow (b : Byte)
  /-- absolute indirect, row 3: fetch pointer address high, increment PC -/
  | fetchPointerHigh (b : Byte)
  /-- absolute indirect, row 4: fetch low address to latch -/
  | fetchLatch
  /-- absolute indirect, row 5: fetch PCH, copy latch to PCL -/
  | fetchPchCopyLatch
deriving DecidableEq, Repr

end Sys2Proof.Machine
end

