-- ==== Sys2Proof/Machine/Regs.lean ====
section
/-! DEFINITION. The register tuple that every data operation takes and gives (spec/10_state.md R10 to R15, spec/00_scope.md R8),
the temporaries of R20, and one event of the bus (R1). -/

namespace Sys2Proof.Machine

/-- `P` as the model stores it: six one-bit flags. Bits 5 and 4 of the byte image are no stored flags (R15). -/
structure Flags where
  /-- negative -/
  n : Bool
  /-- overflow -/
  v : Bool
  /-- decimal -/
  d : Bool
  /-- interrupt disable: a stored bit that nothing consults (R146) -/
  i : Bool
  /-- zero -/
  z : Bool
  /-- carry -/
  c : Bool
deriving DecidableEq, Repr, Inhabited

/-- The tuple `Regs` of R8: (A, X, Y, S, P). PC is not in it: no data operation may change PC. -/
structure Regs where
  /-- the accumulator (R11) -/
  a : Byte
  /-- index register X (R12) -/
  x : Byte
  /-- index register Y (R12) -/
  y : Byte
  /-- the stack pointer: the low byte of the next free stack location (R13) -/
  s : Byte
  /-- the processor status register (R15) -/
  p : Flags
deriving DecidableEq, Repr, Inhabited

/-- The `addrinfo` of `StoreVal` (R8): the operand's high byte and the carry of the index add for the indexed write modes
(R113, R127), nothing for the others. -/
abbrev AddrInfo := Option (Byte × Bool)

/-- The temporaries that live from one cycle to a later cycle of the same instruction (R20, log 9). -/
structure Temps where
  /-- low byte of an address, or a zero-page address -/
  lo : Byte
  /-- high byte of an address -/
  hi : Byte
  /-- the low target byte of JMP (absolute) -/
  latch : Byte
  /-- the pointer of the indirect modes, a zero-page pointer held as a 16-bit address -/
  ptr : Addr
  /-- a page boundary was crossed by the last low-byte add (log 23) -/
  c : Bool
  /-- the displacement of a branch -/
  operand : Byte
  /-- the value read, and in a read-modify-write the value written back -/
  v : Byte
deriving DecidableEq, Repr

/-- The temporaries between instructions: none of them survives the end of an instruction (R20, log 9). -/
def Temps.dead : Temps := ⟨0, 0, 0, 0, false, 0, 0⟩

/-- The `R/W` column of a cycle table (R1). -/
inductive AccessKind where
  | read | write
deriving DecidableEq, Repr

/-- One bus access, the event `(address, R or W, byte)` that every cycle emits (R1). -/
structure BusEvent where
  addr : Addr
  kind : AccessKind
  byte : Byte
deriving DecidableEq, Repr

/-- The event of a read at `a` that gave `b` (R1). -/
def rd (a : Addr) (b : Byte) : BusEvent := ⟨a, .read, b⟩

/-- The event of a write of `b` at `a` (R1). -/
def wr (a : Addr) (b : Byte) : BusEvent := ⟨a, .write, b⟩

end Sys2Proof.Machine
end

