-- ==== Sys2Proof/Config.lean ====
section
/-! DEFINITION. What the spec leaves to the one who uses the model: the five data operations of the tier 3 instructions
(spec/00_scope.md R8, D18, U11) and what the platform answers where no memory does (spec/20_memory.md R38, D15, U8), which it makes
parameters: constants without a body, so that a claim holds for EVERY choice of them; and the byte an unlisted address of
memory reads as. -/

namespace Sys2Proof.Config

open Sys2Proof.Machine

/-- `ReadOp` (R8): what a Read instruction does with the byte read at its effective address. Free: no value of it can be proved
(log 6). The meanings reach it only through `Machine.readOp`. -/
opaque readOp : Mnemonic → Regs → Byte → Regs

/-- `RmwOp` (R8): the new registers and the new byte of a Read-Modify-Write instruction. Free (log 6). -/
opaque rmwOp : Mnemonic → Regs → Byte → Regs × Byte

/-- `StoreVal` (R8) of the mnemonics whose stored byte the spec does not fix. Free (log 6, log 8). -/
opaque storeVal : Mnemonic → Regs → AddrInfo → Byte

/-- `ImpliedOp` (R8): what an accumulator or implied instruction does to the registers. Free (log 6). -/
opaque impliedOp : Mnemonic → Regs → Regs

/-- `ImmOp` (R8): what an immediate instruction does with its operand byte. Free (log 6). -/
opaque immOp : Mnemonic → Regs → Byte → Regs

/-- `Platform.read(history, addr)` of a device (R38): its answer to a read, from every access before it (newest first) and the
address. Free (log 2). Writes and earlier reads, dummy ones included, reach it through the history (R36, R37, R39). -/
opaque deviceRead : List BusEvent → Addr → Byte

/-- The byte of a read from an address that the platform does not populate: a draw, unconstrained for each read, since no two reads
of a run have the same history (R38, U8). Free (log 24). -/
opaque unpopulatedRead : List BusEvent → Addr → Byte

/-- DESIGN CHOICE, unsafe (log 3): what an address of plain or read-only memory holds while the list of its bytes names nothing
there. The spec leaves the first contents of memory to `InitState.mem` (R22, R38). -/
def unlistedByte : Byte := 0x00

end Sys2Proof.Config
end

