-- ==== Sys2Proof/Machine/State.lean ====
section
/-! DEFINITION. The machine's state as plain data (spec/10_state.md R10 to R22), the canonical form of memory, the reasons a step can
stop, and the state a run starts from (spec/70_reset_and_hazards.md R160, log 4). -/

namespace Sys2Proof.Machine

/-- The 2^16 bytes of the one address space (R30) as (address, byte) pairs: addresses strictly rising, nothing listed that an
unlisted address reads as. -/
abbrev Memory := List Host.Cell

/-- The canonical form above a bound: addresses rise from `low`, lie below 2^16, and no entry holds the unlisted byte. -/
def Memory.wfFrom : Nat → Memory → Bool
  | _, [] => true
  | low, (a, b) :: rest => decide (low ≤ a) && decide (a < 65536) && b != Config.unlistedByte && Memory.wfFrom (a + 1) rest

/-- The canonical form of a memory: equal memories are equal data. -/
def Memory.wf (m : Memory) : Bool := Memory.wfFrom 0 m

/-- What stands at an address (R31, R38). -/
inductive RegionKind where
  /-- plain read-write memory: a read returns the byte most recently written, a write replaces it (R38) -/
  | plain
  /-- read-only memory: a write is a bus access that changes nothing (R38: the vector "may be read-only") -/
  | readOnly
  /-- anything whose answers are its own: a device, an alias, memory that another agent changes (R36, R37, R39, R42) -/
  | device
  /-- nothing: a read returns an unconstrained byte (R38, U8) -/
  | unpopulated
deriving DecidableEq, Repr

/-- The addresses from `first` to `last`, both included, and what stands there. -/
structure Region where
  first : Addr
  last : Addr
  kind : RegionKind
deriving DecidableEq, Repr

/-- The model argument `Platform` as plain data (R38, D15): which addresses are what. The first region that holds an address
decides; an address in none is plain memory, the spec's default. What a device or an empty address answers is
`Config.deviceRead` and `Config.unpopulatedRead` (log 2, log 24). -/
abbrev Platform := List Region

/-- Everything the spec gives the machine: the six registers (R10), the state a cycle needs (R19, R20), memory (R30), the platform
on the bus (R38), and the bus trace, which R165 makes observable and R38 gives the platform as its history. -/
structure State where
  /-- A, X, Y, S and P (R11 to R15) -/
  regs : Regs
  /-- the program counter (R14) -/
  pc : Addr
  /-- the opcode byte fetched in cycle 1; dead between instructions (R19) -/
  ir : Byte
  /-- the index of the cycle within the instruction; 1 between instructions (R19) -/
  t : Nat
  /-- the temporaries; dead between instructions (R20) -/
  tmp : Temps
  /-- the bytes of plain and read-only memory (R38) -/
  mem : Memory
  /-- what stands at each address: an argument of the run, which no step changes (R38, log 2) -/
  platform : Platform
  /-- the bus trace of the run so far, NEWEST FIRST (R165, log 12); `State.trace` gives it in the order of the tables -/
  bus : List BusEvent
deriving DecidableEq, Repr

/-- The bus trace in the order in which the accesses happened (R1, R165). -/
def State.trace (s : State) : List BusEvent := s.bus.reverse

/-- The faults of the machine: there are none. No table of the spec has one and every addressing corner has a defined behaviour
(R140, log 17); BRK, the one trap, is an instruction with a next state. -/
inductive Fault : Type
deriving DecidableEq, Repr

/-- The refusals: verdicts of the model about its own coverage, which the spec itself asks for (R147, R152, R166). -/
inductive Refusal where
  /-- Raised by `exec` alone, for an instruction that has no meaning in the model yet. Safe: nothing is claimed of such a run. -/
  | notModelled (mnemonic : String)
  /-- Raised by `step` for one of the 31 opcode bytes without a row: the spec's `Refused(opcode)` (R58). Safe. -/
  | unlistedOpcode (opcode : Byte)
  /-- Raised by the meanings of SHA, SHX, SHY, SHS and LAE: rows whose treatment in the spec is `refuse` (R166, U9, log 16). Safe. -/
  | unstableOpcode (opcode : Byte)
deriving DecidableEq, Repr

/-- What a step answers. -/
abbrev Out := Host.Outcome State Fault Refusal

/-- The state a run starts from. The spec gives T = 1 and no other value (R22, R160): I = 1, S = $FD and PC = $0000 are PRESUMED
of the family, A, X, Y and the other flags are a DESIGN CHOICE (log 4); memory lists nothing (log 3); every address is plain memory,
R38's default (log 2). -/
def State.reset : State where
  regs := { a := 0x00, x := 0x00, y := 0x00, s := 0xFD
            p := { n := false, v := false, d := false, i := true, z := false, c := false } }
  pc := 0x0000
  ir := 0x00
  t := 1
  tmp := Temps.dead
  mem := []
  platform := []
  bus := []

end Sys2Proof.Machine
end

