-- ==== Sys2Proof/Machine/Flags.lean ====
section
/-! DEFINITION. Every flag computation the spec gives: the byte image of P that is pushed, the flags a pulled byte gives, N and Z of
PLA, and the branch conditions (spec/10_state.md R15 to R18, spec/45_relative.md R116). -/

namespace Sys2Proof.Machine

/-- `PushByte(P, b) = N:V:1:b:D:I:Z:C`, the byte a push of P writes (R16). -/
def pushByte (p : Flags) (b : Bool) : Byte :=
  BitVec.ofBool p.n ++ BitVec.ofBool p.v ++ 1#1 ++ BitVec.ofBool b ++
    BitVec.ofBool p.d ++ BitVec.ofBool p.i ++ BitVec.ofBool p.z ++ BitVec.ofBool p.c

/-- `PullP(v)`: the flags that a pulled byte gives; its bits 5 and 4 are discarded (R17). -/
def pullP (v : Byte) : Flags where
  n := v.getLsbD 7
  v := v.getLsbD 6
  d := v.getLsbD 3
  i := v.getLsbD 2
  z := v.getLsbD 1
  c := v.getLsbD 0

/-- N and Z from a byte, the other flags unchanged: what PLA does to P (R76). -/
def setNZ (p : Flags) (v : Byte) : Flags := { p with n := v.getLsbD 7, z := v == 0 }

/-- I set to 1, the other flags unchanged: what BRK does to P after the push (R71). -/
def setI (p : Flags) : Flags := { p with i := true }

/-- `Taken(mnemonic, P)`: the condition of each branch (R116). -/
def taken : Branch → Flags → Bool
  | .bpl, p => !p.n
  | .bmi, p => p.n
  | .bvc, p => !p.v
  | .bvs, p => p.v
  | .bcc, p => !p.c
  | .bcs, p => p.c
  | .bne, p => !p.z
  | .beq, p => p.z

end Sys2Proof.Machine
end

