-- ==== Sys2Proof/Machine/Operands.lean ====
section
/-! DEFINITION. The address computations of every addressing mode (spec/20_memory.md R45 and the rules it names) and the data
operations of the tier 3 instructions as far as the spec fixes them (spec/00_scope.md R8). -/

namespace Sys2Proof.Machine

/-- `StackAddr(S)`: the address whose high byte is `$01` and whose low byte is S (R5, R13). -/
def stackAddr (s : Byte) : Addr := addrOf 0x01 s

/-- The zero-page address with the given low byte: the high byte is always zero (R31, R53). -/
def zeroPageAddr (b : Byte) : Addr := addrOf 0x00 b

/-- The next address inside the same page: the low byte plus 1 modulo 256, the high byte unchanged (R120, R124, R128). -/
def nextInPage (a : Addr) : Addr := addrOf (highByte a) (lowByte a + 1)

/-- The value of the index register I (R12, R53). -/
def indexValue : Index → Regs → Byte
  | .x, r => r.x
  | .y, r => r.y

/-- Does the unsigned 8-bit addition carry, that is, is a page boundary crossed (R110, R124)? -/
def addCarry (lo i : Byte) : Bool := decide (256 ≤ lo.toNat + i.toNat)

/-- "Fix the high byte": add the pending carry, modulo 256 (R110). -/
def fixHigh (hi : Byte) (c : Bool) : Byte := if c then hi + 1 else hi

/-- Take the pending carry back out of a fixed high byte: the operand's high byte, which `StoreVal` receives (R113, R127). -/
def unfixHigh (hi : Byte) (c : Bool) : Byte := if c then hi - 1 else hi

/-- Does adding the signed displacement to PCL leave 0 to 255, so that PCH must change (R115)? -/
def branchCrosses (pcl d : Byte) : Bool :=
  decide ((pcl.toNat : Int) + d.toInt < 0 ∨ 256 ≤ (pcl.toNat : Int) + d.toInt)

/-- "Fix PCH": one down after a borrow of a backward branch, one up after a carry of a forward one, modulo 256 (R115). -/
def fixPch (pch d : Byte) : Byte := if d.msb then pch - 1 else pch + 1

/-- `ReadOp`: free (log 6), but for NOP, which discards the value and changes no register (R59, log 7). -/
def readOp (m : Mnemonic) (r : Regs) (v : Byte) : Regs :=
  match m with
  | .nop => r
  | m => Config.readOp m r v

/-- `RmwOp`: free (log 6). -/
def rmwOp (m : Mnemonic) (r : Regs) (v : Byte) : Regs × Byte := Config.rmwOp m r v

/-- `StoreVal`: A, X, Y for STA, STX, STY (R8, R132); free for the others (log 8). -/
def storeVal (m : Mnemonic) (r : Regs) (info : AddrInfo) : Byte :=
  match m with
  | .sta => r.a
  | .stx => r.x
  | .sty => r.y
  | m => Config.storeVal m r info

/-- `ImpliedOp`: free (log 6, log 7). -/
def impliedOp (m : Mnemonic) (r : Regs) : Regs := Config.impliedOp m r

/-- `ImmOp`: free (log 6). -/
def immOp (m : Mnemonic) (r : Regs) (v : Byte) : Regs := Config.immOp m r v

end Sys2Proof.Machine
end

