-- ==== Sys2Proof/Machine/Ops.lean ====
section
/-! DEFINITION. The named operations: reading and writing a byte of memory, the platform's answers, the updates of State, one cycle (a bus access at an
address computed from the values at the start of the cycle, then the register changes at its end: spec/00_scope.md R1, R2), a
run of rows, taking the one trap and returning from it (spec/60_exceptions.md R141, R145). -/

namespace Sys2Proof.Machine

/-! ## Memory (R30, R38) -/

/-- The byte listed at an address, or what an unlisted address reads as. -/
def lookupCell (a : Nat) : Memory → Byte
  | [] => Config.unlistedByte
  | (k, b) :: rest => if k = a then b else lookupCell a rest

/-- Take every entry of an address out. -/
def eraseCell (a : Nat) : Memory → Memory
  | [] => []
  | (k, b) :: rest => if k = a then eraseCell a rest else (k, b) :: eraseCell a rest

/-- Put an entry before the first one with a larger address. -/
def insertCell (a : Nat) (v : Byte) : Memory → Memory
  | [] => [(a, v)]
  | (k, b) :: rest => if a < k then (a, v) :: (k, b) :: rest else (k, b) :: insertCell a v rest

/-- The byte memory holds at an address (R38). -/
def readByte (m : Memory) (a : Addr) : Byte := lookupCell a.toNat m

/-- Replace the byte at an address (R38), in canonical form: the unlisted byte is stored by listing nothing. -/
def writeByte (m : Memory) (a : Addr) (v : Byte) : Memory :=
  if v = Config.unlistedByte then eraseCell a.toNat m else insertCell a.toNat v (eraseCell a.toNat m)

/-- Bytes stored at ascending addresses, modulo 2^16. -/
def storeBytes (m : Memory) (a : Addr) : List Byte → Memory
  | [] => m
  | b :: rest => storeBytes (writeByte m a b) (a + 1) rest

/-! ## Platform (R38, R39) -/

/-- What stands at an address: the first region that holds it decides, and outside all of them is plain memory (R38). -/
def regionKind : Platform → Addr → RegionKind
  | [], _ => .plain
  | r :: rest, a => if r.first.toNat ≤ a.toNat ∧ a.toNat ≤ r.last.toNat then r.kind else regionKind rest a

/-- `Platform.read(history, addr)` (R38), with the history newest first: memory answers with the byte it holds, a device and an
unpopulated address with a free byte of their own. -/
def platformRead (p : Platform) (m : Memory) (history : List BusEvent) (a : Addr) : Byte :=
  match regionKind p a with
  | .plain | .readOnly => readByte m a
  | .device => Config.deviceRead history a
  | .unpopulated => Config.unpopulatedRead history a

/-- `Platform.write(addr, byte)` (R38): plain memory takes the byte. A device learns of the write from the history. -/
def platformWrite (p : Platform) (m : Memory) (a : Addr) (v : Byte) : Memory :=
  match regionKind p a with
  | .plain => writeByte m a v
  | .readOnly | .device | .unpopulated => m

/-- A platform on which an address is memory: as it is, or with plain memory put there. -/
def withMemoryAt (p : Platform) (a : Addr) : Platform :=
  match regionKind p a with
  | .plain | .readOnly => p
  | .device | .unpopulated => ⟨a, a, .plain⟩ :: p

/-- The byte that a bus read at an address gives now. -/
def State.busRead (s : State) (a : Addr) : Byte := platformRead s.platform s.mem s.bus a

/-! ## Updates of State -/

def State.setRegs (s : State) (r : Regs) : State := { s with regs := r }
def State.setPc (s : State) (a : Addr) : State := { s with pc := a }
def State.setIr (s : State) (b : Byte) : State := { s with ir := b }
def State.setTmp (s : State) (x : Temps) : State := { s with tmp := x }
def State.setMem (s : State) (m : Memory) : State := { s with mem := m }
def State.setPlatform (s : State) (p : Platform) : State := { s with platform := p }

/-- S written, the other registers unchanged. -/
def State.setS (s : State) (b : Byte) : State := s.setRegs { s.regs with s := b }

/-- P written, the other registers unchanged. -/
def State.setP (s : State) (p : Flags) : State := s.setRegs { s.regs with p := p }

/-- One bus access done: the event is recorded and T moves to the next cycle (R1, R19). -/
def State.logAccess (s : State) (e : BusEvent) : State := { s with bus := e :: s.bus, t := s.t + 1 }

/-- One bus read done (R1, R38). -/
def State.afterRead (s : State) (a : Addr) : State := s.logAccess (rd a (s.busRead a))

/-- The end of an instruction: T = 1, every temporary dead (R19, R20). -/
def State.endInstr (s : State) : State := { s with t := 1, tmp := Temps.dead }

/-! ## One cycle (R1, R2, R130) -/

/-- The effective address `hi:lo` that the temporaries hold (R20). -/
def State.effective (s : State) : Addr := addrOf s.tmp.hi s.tmp.lo

/-- The `address` column of a row, with the values at the start of the cycle (R2). -/
def cycleAddr : Cycle → State → Addr
  | .fetchOpcode, s | .readNext, s | .skipNext, s | .incrementPc, s => s.pc
  | .fetchLow _, s | .fetchHigh _, s | .jumpHigh _, s | .jumpHighFromBus, s | .fetchValue _, s => s.pc
  | .fetchZeroPage _, s | .fetchHighAddIndex _ _, s | .fetchPointer _, s | .fetchOperand _, s => s.pc
  | .fetchPointerLow _, s | .fetchPointerHigh _, s => s.pc
  | .addOperandIfTaken _, s | .fixPchIfCrossed, s => s.pc
  | .pushPch, s | .pushPcl, s | .pushP, s | .pushA, s => stackAddr s.regs.s
  | .incrementS, s | .pullPIncrementS, s | .pullPclIncrementS, s | .pullPch, s => stackAddr s.regs.s
  | .pullA, s | .pullP, s | .internalOperation, s => stackAddr s.regs.s
  | .fetchVectorLow, _ => 0xFFFE
  | .fetchVectorHigh, _ => 0xFFFF
  | .readEffective, s | .writeBack, s | .writeNew _, s | .writeRegister _, s => s.effective
  | .readFixHigh, s | .rereadIfCrossed, s | .writeRegisterIndexed _, s => s.effective
  | .addIndexZeroPage _, s => s.effective
  | .addXToPointer, s | .fetchEffectiveLow, s | .fetchLatch, s => s.tmp.ptr
  | .fetchEffectiveHigh, s | .fetchEffectiveHighAddY, s | .fetchPchCopyLatch, s => nextInPage s.tmp.ptr

/-- The `R/W` column of a row: the byte it writes, or none where it reads. -/
def cycleWrites : Cycle → State → Option Byte
  | .pushPch, s => some (highByte s.pc)
  | .pushPcl, s => some (lowByte s.pc)
  | .pushP, s => some (pushByte s.regs.p true)
  | .pushA, s => some s.regs.a
  | .writeBack, s => some s.tmp.v
  | .writeNew m, s => some (rmwOp m s.regs s.tmp.v).2
  | .writeRegister m, s => some (storeVal m s.regs none)
  | .writeRegisterIndexed m, s => some (storeVal m s.regs (some (unfixHigh s.tmp.hi s.tmp.c, s.tmp.c)))
  | _, _ => none

/-- The `description` column of a row: the register changes at the END of the cycle (R2), with `b` the byte the access moved. -/
def cycleCommit : Cycle → Byte → State → State
  | .fetchOpcode, b, s => ((s.setIr b).setTmp Temps.dead).setPc (s.pc + 1)
  | .readNext, _, s => s
  | .skipNext, _, s => s.setPc (s.pc + 1)
  | .pushPch, _, s | .pushPcl, _, s | .pushP, _, s | .pushA, _, s => s.setS (s.regs.s - 1)
  | .fetchVectorLow, b, s => (s.setPc (addrOf (highByte s.pc) b)).setP (setI s.regs.p)
  | .fetchVectorHigh, b, s => s.setPc (addrOf b (lowByte s.pc))
  | .incrementS, _, s => s.setS (s.regs.s + 1)
  | .pullPIncrementS, b, s => s.setRegs { s.regs with p := pullP b, s := s.regs.s + 1 }
  | .pullPclIncrementS, b, s => (s.setPc (addrOf (highByte s.pc) b)).setS (s.regs.s + 1)
  | .pullPch, b, s => s.setPc (addrOf b (lowByte s.pc))
  | .incrementPc, _, s => s.setPc (s.pc + 1)
  | .pullA, b, s => s.setRegs { s.regs with a := b, p := setNZ s.regs.p b }
  | .pullP, b, s => s.setP (pullP b)
  | .internalOperation, _, s => s
  | .fetchLow b, _, s => (s.setTmp { s.tmp with lo := b }).setPc (s.pc + 1)
  | .fetchHigh b, _, s => (s.setTmp { s.tmp with hi := b }).setPc (s.pc + 1)
  | .jumpHigh b, _, s => s.setPc (addrOf b s.tmp.lo)
  | .jumpHighFromBus, b, s => s.setPc (addrOf b s.tmp.lo)
  | .fetchValue b, _, s => (s.setTmp { s.tmp with v := b }).setPc (s.pc + 1)
  | .readEffective, b, s => s.setTmp { s.tmp with v := b }
  | .writeBack, _, s => s
  | .writeNew m, _, s => s.setRegs (rmwOp m s.regs s.tmp.v).1
  | .writeRegister _, _, s | .writeRegisterIndexed _, _, s => s
  | .fetchZeroPage b, _, s => (s.setTmp { s.tmp with lo := b, hi := 0x00 }).setPc (s.pc + 1)
  | .addIndexZeroPage i, _, s => s.setTmp { s.tmp with lo := s.tmp.lo + indexValue i s.regs }
  | .fetchHighAddIndex b i, _, s =>
    (s.setTmp { s.tmp with
      hi := b
      lo := s.tmp.lo + indexValue i s.regs
      c := addCarry s.tmp.lo (indexValue i s.regs) }).setPc (s.pc + 1)
  | .readFixHigh, b, s => s.setTmp { s.tmp with v := b, hi := fixHigh s.tmp.hi s.tmp.c }
  | .rereadIfCrossed, b, s => s.setTmp { s.tmp with v := b }
  | .fetchPointer b, _, s => (s.setTmp { s.tmp with ptr := zeroPageAddr b }).setPc (s.pc + 1)
  | .addXToPointer, _, s => s.setTmp { s.tmp with ptr := zeroPageAddr (lowByte s.tmp.ptr + s.regs.x) }
  | .fetchEffectiveLow, b, s => s.setTmp { s.tmp with lo := b }
  | .fetchEffectiveHigh, b, s => s.setTmp { s.tmp with hi := b }
  | .fetchEffectiveHighAddY, b, s =>
    s.setTmp { s.tmp with hi := b, lo := s.tmp.lo + s.regs.y, c := addCarry s.tmp.lo s.regs.y }
  | .fetchOperand b, _, s => (s.setTmp { s.tmp with operand := b }).setPc (s.pc + 1)
  | .addOperandIfTaken _, _, s =>
    (s.setTmp { s.tmp with c := branchCrosses (lowByte s.pc) s.tmp.operand }).setPc
      (addrOf (highByte s.pc) (lowByte s.pc + s.tmp.operand))
  | .fixPchIfCrossed, _, s => s.setPc (addrOf (fixPch (highByte s.pc) s.tmp.operand) (lowByte s.pc))
  | .fetchPointerLow b, _, s => (s.setTmp { s.tmp with ptr := zeroPageAddr b }).setPc (s.pc + 1)
  | .fetchPointerHigh b, _, s => (s.setTmp { s.tmp with ptr := addrOf b (lowByte s.tmp.ptr) }).setPc (s.pc + 1)
  | .fetchLatch, b, s => s.setTmp { s.tmp with latch := b }
  | .fetchPchCopyLatch, b, s => s.setPc (addrOf b s.tmp.latch)

/-- The row markers `+` and `!`: is the row executed (R4)? A row without a marker always is. -/
def cycleHappens : Cycle → State → Bool
  | .rereadIfCrossed, s | .fixPchIfCrossed, s => s.tmp.c
  | .addOperandIfTaken b, s => taken b s.regs.p
  | _, _ => true

/-- One cycle step (R165): exactly one bus access (R1), then the register changes at the end of the cycle (R2). -/
def runCycle (k : Cycle) (s : State) : State :=
  match cycleWrites k s with
  | none => cycleCommit k (s.busRead (cycleAddr k s)) (s.afterRead (cycleAddr k s))
  | some b => cycleCommit k b ((s.setMem (platformWrite s.platform s.mem (cycleAddr k s) b)).logAccess (wr (cycleAddr k s) b))

/-- The rows of a table in their order, a marked row only under its condition (R4, R35). -/
def runRows : List Cycle → State → State
  | [], s => s
  | k :: rest, s => runRows rest (if cycleHappens k s then runCycle k s else s)

/-! ## The ends of an instruction -/

/-- The instruction is over and the machine goes on at its next boundary. -/
def complete (s : State) : Out := .next s.endInstr

/-- A Read instruction: its rows, then `ReadOp` on the byte read, at the end of the last cycle (R8, R9). -/
def runRead (m : Mnemonic) (rows : List Cycle) (s : State) : Out :=
  let s' := runRows rows s
  complete (s'.setRegs (readOp m s'.regs s'.tmp.v))

/-- An instruction whose rows say all it does. -/
def runPlain (rows : List Cycle) (s : State) : Out := complete (runRows rows s)

/-! ## The trap and its return (R141, R145) -/

/-- Taking the one exception, BRK's entry: PCH, PCL and P (with B set) are pushed, PC comes from `$FFFE` and `$FFFF`, I is set after
the push (R141, R142, R144). No mode, no second stack, no other register changes. -/
def takeBreak (s : State) : State :=
  runRows [.pushPch, .pushPcl, .pushP, .fetchVectorLow, .fetchVectorHigh] s

/-- The return from it: the six flags, then PCL, then PCH are pulled; PC is the pulled word itself (R145). -/
def returnFromBreak (s : State) : State :=
  runRows [.incrementS, .pullPIncrementS, .pullPclIncrementS, .pullPch] s

/-! ## Fetching -/

/-- The bytes that consecutive bus reads from PC on would give, at most three, at ascending addresses modulo 2^16 (R6, R38, R50). The
decoder looks at them; the bus accesses of the fetch are the rows of the instruction itself, which get these bytes (log 11). -/
def fetchBytes (s : State) : List Byte :=
  let s1 := s.afterRead s.pc
  let s2 := s1.afterRead (s.pc + 1)
  [s.busRead s.pc, s1.busRead (s.pc + 1), s2.busRead (s.pc + 2)]

/-- The opcode byte that the fetch at PC gets. -/
def opcodeAtPc (s : State) : Byte := s.busRead s.pc

end Sys2Proof.Machine
end

