-- ==== Sys2Proof/Machine/Absolute.lean ====
section
/-! DEFINITION. Absolute addressing (spec/42_absolute.md R95 to R98). -/

namespace Sys2Proof.Machine

/-- Rows 1 to 3 of absolute addressing (R96, R97, R98). -/
def absoluteRows (a : Addr) : List Cycle := [.fetchOpcode, .fetchLow (lowByte a), .fetchHigh (highByte a)]

/-- Absolute Read (R96). -/
def absoluteRead (m : Mnemonic) (a : Addr) (s : State) : Out := runRead m (absoluteRows a ++ [.readEffective]) s

/-- Absolute Read-Modify-Write (R97). -/
def absoluteRmw (m : Mnemonic) (a : Addr) (s : State) : Out :=
  runPlain (absoluteRows a ++ [.readEffective, .writeBack, .writeNew m]) s

/-- Absolute Write (R98). -/
def absoluteWrite (m : Mnemonic) (a : Addr) (s : State) : Out := runPlain (absoluteRows a ++ [.writeRegister m]) s

/-- NOP absolute, `$0C` (R96). -/
def execNopAbs (a : Addr) (s : State) : Out := absoluteRead .nop a s

/-- ORA absolute, `$0D` (R96). -/
def execOraAbs (a : Addr) (s : State) : Out := absoluteRead .ora a s

/-- ASL absolute, `$0E` (R97). -/
def execAslAbs (a : Addr) (s : State) : Out := absoluteRmw .asl a s

/-- SLO absolute, `$0F` (R97). -/
def execSloAbs (a : Addr) (s : State) : Out := absoluteRmw .slo a s

/-- BIT absolute, `$2C` (R96). -/
def execBitAbs (a : Addr) (s : State) : Out := absoluteRead .bit a s

/-- AND absolute, `$2D` (R96). -/
def execAndAbs (a : Addr) (s : State) : Out := absoluteRead .and a s

/-- ROL absolute, `$2E` (R97). -/
def execRolAbs (a : Addr) (s : State) : Out := absoluteRmw .rol a s

/-- RLA absolute, `$2F` (R97). -/
def execRlaAbs (a : Addr) (s : State) : Out := absoluteRmw .rla a s

/-- JMP absolute, `$4C` (R95). -/
def execJmpAbs (a : Addr) (s : State) : Out := runPlain [.fetchOpcode, .fetchLow (lowByte a), .jumpHigh (highByte a)] s

/-- EOR absolute, `$4D` (R96). -/
def execEorAbs (a : Addr) (s : State) : Out := absoluteRead .eor a s

/-- LSR absolute, `$4E` (R97). -/
def execLsrAbs (a : Addr) (s : State) : Out := absoluteRmw .lsr a s

/-- SRE absolute, `$4F` (R97). -/
def execSreAbs (a : Addr) (s : State) : Out := absoluteRmw .sre a s

/-- ADC absolute, `$6D` (R96). -/
def execAdcAbs (a : Addr) (s : State) : Out := absoluteRead .adc a s

/-- ROR absolute, `$6E` (R97). -/
def execRorAbs (a : Addr) (s : State) : Out := absoluteRmw .ror a s

/-- RRA absolute, `$6F` (R97). -/
def execRraAbs (a : Addr) (s : State) : Out := absoluteRmw .rra a s

/-- STY absolute, `$8C` (R98). -/
def execStyAbs (a : Addr) (s : State) : Out := absoluteWrite .sty a s

/-- STA absolute, `$8D` (R98). -/
def execStaAbs (a : Addr) (s : State) : Out := absoluteWrite .sta a s

/-- STX absolute, `$8E` (R98). -/
def execStxAbs (a : Addr) (s : State) : Out := absoluteWrite .stx a s

/-- SAX absolute, `$8F` (R98). -/
def execSaxAbs (a : Addr) (s : State) : Out := absoluteWrite .sax a s

/-- LDY absolute, `$AC` (R96). -/
def execLdyAbs (a : Addr) (s : State) : Out := absoluteRead .ldy a s

/-- LDA absolute, `$AD` (R96). -/
def execLdaAbs (a : Addr) (s : State) : Out := absoluteRead .lda a s

/-- LDX absolute, `$AE` (R96). -/
def execLdxAbs (a : Addr) (s : State) : Out := absoluteRead .ldx a s

/-- LAX absolute, `$AF` (R96). -/
def execLaxAbs (a : Addr) (s : State) : Out := absoluteRead .lax a s

/-- CPY absolute, `$CC` (R96). -/
def execCpyAbs (a : Addr) (s : State) : Out := absoluteRead .cpy a s

/-- CMP absolute, `$CD` (R96). -/
def execCmpAbs (a : Addr) (s : State) : Out := absoluteRead .cmp a s

/-- DEC absolute, `$CE` (R97). -/
def execDecAbs (a : Addr) (s : State) : Out := absoluteRmw .dec a s

/-- DCP absolute, `$CF` (R97). -/
def execDcpAbs (a : Addr) (s : State) : Out := absoluteRmw .dcp a s

/-- CPX absolute, `$EC` (R96). -/
def execCpxAbs (a : Addr) (s : State) : Out := absoluteRead .cpx a s

/-- SBC absolute, `$ED` (R96). -/
def execSbcAbs (a : Addr) (s : State) : Out := absoluteRead .sbc a s

/-- INC absolute, `$EE` (R97). -/
def execIncAbs (a : Addr) (s : State) : Out := absoluteRmw .inc a s

/-- ISB absolute, `$EF` (R97). -/
def execIsbAbs (a : Addr) (s : State) : Out := absoluteRmw .isb a s

end Sys2Proof.Machine
end

