-- ==== Sys2Proof/Machine/AbsoluteIndexed.lean ====
section
/-! DEFINITION. Absolute indexed addressing (spec/44_absolute_indexed.md R110 to R113). The rows SHA, SHX, SHY, SHS and LAE of these tables
are in Sys2Proof/Machine/Unstable.lean. -/

namespace Sys2Proof.Machine

/-- Rows 1 to 4 of absolute indexed addressing: row 4 reads at the address whose high byte is not yet fixed (R110). -/
def absoluteIndexedRows (i : Index) (a : Addr) : List Cycle :=
  [.fetchOpcode, .fetchLow (lowByte a), .fetchHighAddIndex (highByte a) i, .readFixHigh]

/-- Absolute indexed Read (R111): the re-read only when a page boundary was crossed. -/
def absoluteIndexedRead (m : Mnemonic) (i : Index) (a : Addr) (s : State) : Out :=
  runRead m (absoluteIndexedRows i a ++ [.rereadIfCrossed]) s

/-- Absolute indexed Read-Modify-Write (R112): the re-read always. -/
def absoluteIndexedRmw (m : Mnemonic) (i : Index) (a : Addr) (s : State) : Out :=
  runPlain (absoluteIndexedRows i a ++ [.readEffective, .writeBack, .writeNew m]) s

/-- Absolute indexed Write (R113). -/
def absoluteIndexedWrite (m : Mnemonic) (i : Index) (a : Addr) (s : State) : Out :=
  runPlain (absoluteIndexedRows i a ++ [.writeRegisterIndexed m]) s

/-- ORA absolute,Y, `$19` (R111). -/
def execOraAbsY (a : Addr) (s : State) : Out := absoluteIndexedRead .ora .y a s

/-- SLO absolute,Y, `$1B` (R112). -/
def execSloAbsY (a : Addr) (s : State) : Out := absoluteIndexedRmw .slo .y a s

/-- NOP absolute,X, `$1C` (R111). -/
def execNopAbsX1C (a : Addr) (s : State) : Out := absoluteIndexedRead .nop .x a s

/-- ORA absolute,X, `$1D` (R111). -/
def execOraAbsX (a : Addr) (s : State) : Out := absoluteIndexedRead .ora .x a s

/-- ASL absolute,X, `$1E` (R112). -/
def execAslAbsX (a : Addr) (s : State) : Out := absoluteIndexedRmw .asl .x a s

/-- SLO absolute,X, `$1F` (R112). -/
def execSloAbsX (a : Addr) (s : State) : Out := absoluteIndexedRmw .slo .x a s

/-- AND absolute,Y, `$39` (R111). -/
def execAndAbsY (a : Addr) (s : State) : Out := absoluteIndexedRead .and .y a s

/-- RLA absolute,Y, `$3B` (R112). -/
def execRlaAbsY (a : Addr) (s : State) : Out := absoluteIndexedRmw .rla .y a s

/-- NOP absolute,X, `$3C` (R111). -/
def execNopAbsX3C (a : Addr) (s : State) : Out := absoluteIndexedRead .nop .x a s

/-- AND absolute,X, `$3D` (R111). -/
def execAndAbsX (a : Addr) (s : State) : Out := absoluteIndexedRead .and .x a s

/-- ROL absolute,X, `$3E` (R112). -/
def execRolAbsX (a : Addr) (s : State) : Out := absoluteIndexedRmw .rol .x a s

/-- RLA absolute,X, `$3F` (R112). -/
def execRlaAbsX (a : Addr) (s : State) : Out := absoluteIndexedRmw .rla .x a s

/-- EOR absolute,Y, `$59` (R111). -/
def execEorAbsY (a : Addr) (s : State) : Out := absoluteIndexedRead .eor .y a s

/-- SRE absolute,Y, `$5B` (R112). -/
def execSreAbsY (a : Addr) (s : State) : Out := absoluteIndexedRmw .sre .y a s

/-- NOP absolute,X, `$5C` (R111). -/
def execNopAbsX5C (a : Addr) (s : State) : Out := absoluteIndexedRead .nop .x a s

/-- EOR absolute,X, `$5D` (R111). -/
def execEorAbsX (a : Addr) (s : State) : Out := absoluteIndexedRead .eor .x a s

/-- LSR absolute,X, `$5E` (R112). -/
def execLsrAbsX (a : Addr) (s : State) : Out := absoluteIndexedRmw .lsr .x a s

/-- SRE absolute,X, `$5F` (R112). -/
def execSreAbsX (a : Addr) (s : State) : Out := absoluteIndexedRmw .sre .x a s

/-- ADC absolute,Y, `$79` (R111). -/
def execAdcAbsY (a : Addr) (s : State) : Out := absoluteIndexedRead .adc .y a s

/-- RRA absolute,Y, `$7B` (R112). -/
def execRraAbsY (a : Addr) (s : State) : Out := absoluteIndexedRmw .rra .y a s

/-- NOP absolute,X, `$7C` (R111). -/
def execNopAbsX7C (a : Addr) (s : State) : Out := absoluteIndexedRead .nop .x a s

/-- ADC absolute,X, `$7D` (R111). -/
def execAdcAbsX (a : Addr) (s : State) : Out := absoluteIndexedRead .adc .x a s

/-- ROR absolute,X, `$7E` (R112). -/
def execRorAbsX (a : Addr) (s : State) : Out := absoluteIndexedRmw .ror .x a s

/-- RRA absolute,X, `$7F` (R112). -/
def execRraAbsX (a : Addr) (s : State) : Out := absoluteIndexedRmw .rra .x a s

/-- STA absolute,Y, `$99` (R113). -/
def execStaAbsY (a : Addr) (s : State) : Out := absoluteIndexedWrite .sta .y a s

/-- STA absolute,X, `$9D` (R113). -/
def execStaAbsX (a : Addr) (s : State) : Out := absoluteIndexedWrite .sta .x a s

/-- LDA absolute,Y, `$B9` (R111). -/
def execLdaAbsY (a : Addr) (s : State) : Out := absoluteIndexedRead .lda .y a s

/-- LDY absolute,X, `$BC` (R111). -/
def execLdyAbsX (a : Addr) (s : State) : Out := absoluteIndexedRead .ldy .x a s

/-- LDA absolute,X, `$BD` (R111). -/
def execLdaAbsX (a : Addr) (s : State) : Out := absoluteIndexedRead .lda .x a s

/-- LDX absolute,Y, `$BE` (R111). -/
def execLdxAbsY (a : Addr) (s : State) : Out := absoluteIndexedRead .ldx .y a s

/-- LAX absolute,Y, `$BF` (R111). -/
def execLaxAbsY (a : Addr) (s : State) : Out := absoluteIndexedRead .lax .y a s

/-- CMP absolute,Y, `$D9` (R111). -/
def execCmpAbsY (a : Addr) (s : State) : Out := absoluteIndexedRead .cmp .y a s

/-- DCP absolute,Y, `$DB` (R112). -/
def execDcpAbsY (a : Addr) (s : State) : Out := absoluteIndexedRmw .dcp .y a s

/-- NOP absolute,X, `$DC` (R111). -/
def execNopAbsXDC (a : Addr) (s : State) : Out := absoluteIndexedRead .nop .x a s

/-- CMP absolute,X, `$DD` (R111). -/
def execCmpAbsX (a : Addr) (s : State) : Out := absoluteIndexedRead .cmp .x a s

/-- DEC absolute,X, `$DE` (R112). -/
def execDecAbsX (a : Addr) (s : State) : Out := absoluteIndexedRmw .dec .x a s

/-- DCP absolute,X, `$DF` (R112). -/
def execDcpAbsX (a : Addr) (s : State) : Out := absoluteIndexedRmw .dcp .x a s

/-- SBC absolute,Y, `$F9` (R111). -/
def execSbcAbsY (a : Addr) (s : State) : Out := absoluteIndexedRead .sbc .y a s

/-- ISB absolute,Y, `$FB` (R112). -/
def execIsbAbsY (a : Addr) (s : State) : Out := absoluteIndexedRmw .isb .y a s

/-- NOP absolute,X, `$FC` (R111). -/
def execNopAbsXFC (a : Addr) (s : State) : Out := absoluteIndexedRead .nop .x a s

/-- SBC absolute,X, `$FD` (R111). -/
def execSbcAbsX (a : Addr) (s : State) : Out := absoluteIndexedRead .sbc .x a s

/-- INC absolute,X, `$FE` (R112). -/
def execIncAbsX (a : Addr) (s : State) : Out := absoluteIndexedRmw .inc .x a s

/-- ISB absolute,X, `$FF` (R112). -/
def execIsbAbsX (a : Addr) (s : State) : Out := absoluteIndexedRmw .isb .x a s

end Sys2Proof.Machine
end

