-- ==== Sys2Proof/Machine/Immediate.lean ====
section
/-! DEFINITION. Immediate addressing (spec/41_implied_immediate.md R91): two reads, then `ImmOp` on the operand byte (log 6). -/

namespace Sys2Proof.Machine

/-- R91: the operand byte is the value; the registers as `ImmOp` says. -/
def runImmediate (m : Mnemonic) (v : Byte) (s : State) : Out :=
  let s' := runRows [.fetchOpcode, .fetchValue v] s
  complete (s'.setRegs (immOp m s'.regs s'.tmp.v))

/-- ORA immediate, `$09` (R91). -/
def execOraImm (v : Byte) (s : State) : Out := runImmediate .ora v s

/-- AND immediate, `$29` (R91). -/
def execAndImm (v : Byte) (s : State) : Out := runImmediate .and v s

/-- EOR immediate, `$49` (R91). -/
def execEorImm (v : Byte) (s : State) : Out := runImmediate .eor v s

/-- ADC immediate, `$69` (R91). -/
def execAdcImm (v : Byte) (s : State) : Out := runImmediate .adc v s

/-- LDY immediate, `$A0` (R91). -/
def execLdyImm (v : Byte) (s : State) : Out := runImmediate .ldy v s

/-- LDX immediate, `$A2` (R91). -/
def execLdxImm (v : Byte) (s : State) : Out := runImmediate .ldx v s

/-- LDA immediate, `$A9` (R91). -/
def execLdaImm (v : Byte) (s : State) : Out := runImmediate .lda v s

/-- CPY immediate, `$C0` (R91). -/
def execCpyImm (v : Byte) (s : State) : Out := runImmediate .cpy v s

/-- CMP immediate, `$C9` (R91). -/
def execCmpImm (v : Byte) (s : State) : Out := runImmediate .cmp v s

/-- CPX immediate, `$E0` (R91). -/
def execCpxImm (v : Byte) (s : State) : Out := runImmediate .cpx v s

/-- SBC immediate, `$E9` (R91). -/
def execSbcImm (v : Byte) (s : State) : Out := runImmediate .sbc v s

end Sys2Proof.Machine
end

