-- ==== Sys2Proof/Machine/Implied.lean ====
section
/-! DEFINITION. Accumulator and implied addressing (spec/41_implied_immediate.md R90): two reads, then `ImpliedOp` (log 6). -/

namespace Sys2Proof.Machine

/-- R90: the byte after the opcode is read and thrown away, PC stays on it; the registers as `ImpliedOp` says. -/
def runImplied (m : Mnemonic) (s : State) : Out :=
  let s' := runRows [.fetchOpcode, .readNext] s
  complete (s'.setRegs (impliedOp m s'.regs))

/-- ASL accumulator, `$0A` (R90). -/
def execAslAcc (s : State) : Out := runImplied .asl s

/-- CLC implied, `$18` (R90). -/
def execClc (s : State) : Out := runImplied .clc s

/-- ROL accumulator, `$2A` (R90). -/
def execRolAcc (s : State) : Out := runImplied .rol s

/-- SEC implied, `$38` (R90). -/
def execSec (s : State) : Out := runImplied .sec s

/-- LSR accumulator, `$4A` (R90). -/
def execLsrAcc (s : State) : Out := runImplied .lsr s

/-- CLI implied, `$58` (R90). -/
def execCli (s : State) : Out := runImplied .cli s

/-- ROR accumulator, `$6A` (R90). -/
def execRorAcc (s : State) : Out := runImplied .ror s

/-- SEI implied, `$78` (R90). -/
def execSei (s : State) : Out := runImplied .sei s

/-- DEY implied, `$88` (R90). -/
def execDey (s : State) : Out := runImplied .dey s

/-- TXA implied, `$8A` (R90). -/
def execTxa (s : State) : Out := runImplied .txa s

/-- TYA implied, `$98` (R90). -/
def execTya (s : State) : Out := runImplied .tya s

/-- TXS implied, `$9A` (R90). -/
def execTxs (s : State) : Out := runImplied .txs s

/-- TAY implied, `$A8` (R90). -/
def execTay (s : State) : Out := runImplied .tay s

/-- TAX implied, `$AA` (R90). -/
def execTax (s : State) : Out := runImplied .tax s

/-- CLV implied, `$B8` (R90). -/
def execClv (s : State) : Out := runImplied .clv s

/-- TSX implied, `$BA` (R90). -/
def execTsx (s : State) : Out := runImplied .tsx s

/-- INY implied, `$C8` (R90). -/
def execIny (s : State) : Out := runImplied .iny s

/-- DEX implied, `$CA` (R90). -/
def execDex (s : State) : Out := runImplied .dex s

/-- CLD implied, `$D8` (R90). -/
def execCld (s : State) : Out := runImplied .cld s

/-- INX implied, `$E8` (R90). -/
def execInx (s : State) : Out := runImplied .inx s

/-- NOP implied, `$EA` (R90). -/
def execNop (s : State) : Out := runImplied .nop s

/-- SED implied, `$F8` (R90). -/
def execSed (s : State) : Out := runImplied .sed s

end Sys2Proof.Machine
end

