-- ==== Sys2Proof/Machine/Indirect.lean ====
section
/-! DEFINITION. Indexed indirect, indirect indexed and absolute indirect addressing (spec/46_indirect.md R120 to R128). SHA (zero page),Y is in
Sys2Proof/Machine/Unstable.lean. -/

namespace Sys2Proof.Machine

/-- Rows 1 to 5 of `(zp,X)`: the pointer wraps inside page zero (R120). -/
def indexedIndirectRows (p : Byte) : List Cycle :=
  [.fetchOpcode, .fetchPointer p, .addXToPointer, .fetchEffectiveLow, .fetchEffectiveHigh]

/-- Rows 1 to 5 of `(zp),Y`: row 5 reads at the address whose high byte is not yet fixed (R124). -/
def indirectIndexedRows (p : Byte) : List Cycle :=
  [.fetchOpcode, .fetchPointer p, .fetchEffectiveLow, .fetchEffectiveHighAddY, .readFixHigh]

/-- `(zp,X)` Read (R121). -/
def indexedIndirectRead (m : Mnemonic) (p : Byte) (s : State) : Out := runRead m (indexedIndirectRows p ++ [.readEffective]) s

/-- `(zp,X)` Read-Modify-Write (R122). -/
def indexedIndirectRmw (m : Mnemonic) (p : Byte) (s : State) : Out :=
  runPlain (indexedIndirectRows p ++ [.readEffective, .writeBack, .writeNew m]) s

/-- `(zp,X)` Write (R123). -/
def indexedIndirectWrite (m : Mnemonic) (p : Byte) (s : State) : Out := runPlain (indexedIndirectRows p ++ [.writeRegister m]) s

/-- `(zp),Y` Read (R125): the re-read only when a page boundary was crossed. -/
def indirectIndexedRead (m : Mnemonic) (p : Byte) (s : State) : Out := runRead m (indirectIndexedRows p ++ [.rereadIfCrossed]) s

/-- `(zp),Y` Read-Modify-Write (R126): the re-read always. -/
def indirectIndexedRmw (m : Mnemonic) (p : Byte) (s : State) : Out :=
  runPlain (indirectIndexedRows p ++ [.readEffective, .writeBack, .writeNew m]) s

/-- `(zp),Y` Write (R127). -/
def indirectIndexedWrite (m : Mnemonic) (p : Byte) (s : State) : Out :=
  runPlain (indirectIndexedRows p ++ [.writeRegisterIndexed m]) s

/-- ORA (zero page,X), `$01` (R121). -/
def execOraIndX (p : Byte) (s : State) : Out := indexedIndirectRead .ora p s

/-- SLO (zero page,X), `$03` (R122). -/
def execSloIndX (p : Byte) (s : State) : Out := indexedIndirectRmw .slo p s

/-- ORA (zero page),Y, `$11` (R125). -/
def execOraIndY (p : Byte) (s : State) : Out := indirectIndexedRead .ora p s

/-- SLO (zero page),Y, `$13` (R126). -/
def execSloIndY (p : Byte) (s : State) : Out := indirectIndexedRmw .slo p s

/-- AND (zero page,X), `$21` (R121). -/
def execAndIndX (p : Byte) (s : State) : Out := indexedIndirectRead .and p s

/-- RLA (zero page,X), `$23` (R122). -/
def execRlaIndX (p : Byte) (s : State) : Out := indexedIndirectRmw .rla p s

/-- AND (zero page),Y, `$31` (R125). -/
def execAndIndY (p : Byte) (s : State) : Out := indirectIndexedRead .and p s

/-- RLA (zero page),Y, `$33` (R126). -/
def execRlaIndY (p : Byte) (s : State) : Out := indirectIndexedRmw .rla p s

/-- EOR (zero page,X), `$41` (R121). -/
def execEorIndX (p : Byte) (s : State) : Out := indexedIndirectRead .eor p s

/-- SRE (zero page,X), `$43` (R122). -/
def execSreIndX (p : Byte) (s : State) : Out := indexedIndirectRmw .sre p s

/-- EOR (zero page),Y, `$51` (R125). -/
def execEorIndY (p : Byte) (s : State) : Out := indirectIndexedRead .eor p s

/-- SRE (zero page),Y, `$53` (R126). -/
def execSreIndY (p : Byte) (s : State) : Out := indirectIndexedRmw .sre p s

/-- ADC (zero page,X), `$61` (R121). -/
def execAdcIndX (p : Byte) (s : State) : Out := indexedIndirectRead .adc p s

/-- RRA (zero page,X), `$63` (R122). -/
def execRraIndX (p : Byte) (s : State) : Out := indexedIndirectRmw .rra p s

/-- JMP (absolute), `$6C` (R128). -/
def execJmpInd (a : Addr) (s : State) : Out :=
  runPlain [.fetchOpcode, .fetchPointerLow (lowByte a), .fetchPointerHigh (highByte a), .fetchLatch, .fetchPchCopyLatch] s

/-- ADC (zero page),Y, `$71` (R125). -/
def execAdcIndY (p : Byte) (s : State) : Out := indirectIndexedRead .adc p s

/-- RRA (zero page),Y, `$73` (R126). -/
def execRraIndY (p : Byte) (s : State) : Out := indirectIndexedRmw .rra p s

/-- STA (zero page,X), `$81` (R123). -/
def execStaIndX (p : Byte) (s : State) : Out := indexedIndirectWrite .sta p s

/-- SAX (zero page,X), `$83` (R123). -/
def execSaxIndX (p : Byte) (s : State) : Out := indexedIndirectWrite .sax p s

/-- STA (zero page),Y, `$91` (R127). -/
def execStaIndY (p : Byte) (s : State) : Out := indirectIndexedWrite .sta p s

/-- LDA (zero page,X), `$A1` (R121). -/
def execLdaIndX (p : Byte) (s : State) : Out := indexedIndirectRead .lda p s

/-- LAX (zero page,X), `$A3` (R121). -/
def execLaxIndX (p : Byte) (s : State) : Out := indexedIndirectRead .lax p s

/-- LDA (zero page),Y, `$B1` (R125). -/
def execLdaIndY (p : Byte) (s : State) : Out := indirectIndexedRead .lda p s

/-- LAX (zero page),Y, `$B3` (R125). -/
def execLaxIndY (p : Byte) (s : State) : Out := indirectIndexedRead .lax p s

/-- CMP (zero page,X), `$C1` (R121). -/
def execCmpIndX (p : Byte) (s : State) : Out := indexedIndirectRead .cmp p s

/-- DCP (zero page,X), `$C3` (R122). -/
def execDcpIndX (p : Byte) (s : State) : Out := indexedIndirectRmw .dcp p s

/-- CMP (zero page),Y, `$D1` (R125). -/
def execCmpIndY (p : Byte) (s : State) : Out := indirectIndexedRead .cmp p s

/-- DCP (zero page),Y, `$D3` (R126). -/
def execDcpIndY (p : Byte) (s : State) : Out := indirectIndexedRmw .dcp p s

/-- SBC (zero page,X), `$E1` (R121). -/
def execSbcIndX (p : Byte) (s : State) : Out := indexedIndirectRead .sbc p s

/-- ISB (zero page,X), `$E3` (R122). -/
def execIsbIndX (p : Byte) (s : State) : Out := indexedIndirectRmw .isb p s

/-- SBC (zero page),Y, `$F1` (R125). -/
def execSbcIndY (p : Byte) (s : State) : Out := indirectIndexedRead .sbc p s

/-- ISB (zero page),Y, `$F3` (R126). -/
def execIsbIndY (p : Byte) (s : State) : Out := indirectIndexedRmw .isb p s

end Sys2Proof.Machine
end

