-- ==== Sys2Proof/Machine/Relative.lean ====
section
/-! DEFINITION. The eight relative branches (spec/45_relative.md R115 to R119, R180 to R187). -/

namespace Sys2Proof.Machine

/-- R115: not taken two rows; taken three, or four when PCH must be fixed. The displacement counts from the address after the branch
(R117). -/
def branch (b : Branch) (d : Byte) (s : State) : Out :=
  runPlain [.fetchOpcode, .fetchOperand d, .addOperandIfTaken b, .fixPchIfCrossed] s

/-- BPL relative, `$10` (R180). -/
def execBpl (d : Byte) (s : State) : Out := branch .bpl d s

/-- BMI relative, `$30` (R181). -/
def execBmi (d : Byte) (s : State) : Out := branch .bmi d s

/-- BVC relative, `$50` (R182). -/
def execBvc (d : Byte) (s : State) : Out := branch .bvc d s

/-- BVS relative, `$70` (R183). -/
def execBvs (d : Byte) (s : State) : Out := branch .bvs d s

/-- BCC relative, `$90` (R184). -/
def execBcc (d : Byte) (s : State) : Out := branch .bcc d s

/-- BCS relative, `$B0` (R185). -/
def execBcs (d : Byte) (s : State) : Out := branch .bcs d s

/-- BNE relative, `$D0` (R186). -/
def execBne (d : Byte) (s : State) : Out := branch .bne d s

/-- BEQ relative, `$F0` (R187). -/
def execBeq (d : Byte) (s : State) : Out := branch .beq d s

end Sys2Proof.Machine
end

