-- ==== Sys2Proof/Machine/Stack.lean ====
section
/-! DEFINITION. The eight stack instructions (spec/40_stack_instructions.md R70 to R78), rows as R131 composes them. -/

namespace Sys2Proof.Machine

/-- BRK (`$00`, R71): the byte after the opcode is skipped, then the trap is taken (R141). -/
def execBrk (s : State) : Out := complete (takeBreak (runRows [.fetchOpcode, .skipNext] s))

/-- RTI (`$40`, R72): the flags and PC are pulled; there is no final increment of PC (R145). -/
def execRti (s : State) : Out := complete (returnFromBreak (runRows [.fetchOpcode, .readNext] s))

/-- RTS (`$60`, R73): PC is pulled, then incremented past the last byte of the JSR. -/
def execRts (s : State) : Out := runPlain [.fetchOpcode, .readNext, .incrementS, .pullPclIncrementS, .pullPch, .incrementPc] s

/-- PHA (`$48`, R74). -/
def execPha (s : State) : Out := runPlain [.fetchOpcode, .readNext, .pushA] s

/-- PHP (`$08`, R75): the pushed image has bits 5 and 4 set (R16). -/
def execPhp (s : State) : Out := runPlain [.fetchOpcode, .readNext, .pushP] s

/-- PLA (`$68`, R76): N and Z follow the pulled byte. -/
def execPla (s : State) : Out := runPlain [.fetchOpcode, .readNext, .incrementS, .pullA] s

/-- PLP (`$28`, R77): all six flags from the pulled byte. -/
def execPlp (s : State) : Out := runPlain [.fetchOpcode, .readNext, .incrementS, .pullP] s

/-- JSR (`$20`, R78). The pushed word is the address of the instruction's last byte. The operand's high byte is read from the
bus AFTER the two pushes, which may have overwritten it; the decoded operand gives the low byte only (log 10). -/
def execJsr (a : Addr) (s : State) : Out :=
  runPlain [.fetchOpcode, .fetchLow (lowByte a), .internalOperation, .pushPch, .pushPcl, .jumpHighFromBus] s

end Sys2Proof.Machine
end

