-- ==== Sys2Proof/Machine/Unstable.lean ====
section
/-! DEFINITION. The six rows the spec refuses: SHA, SHX, SHY, SHS and LAE have rows for decoding and length, and a model answers
`Refused(opcode)` when it meets one (spec/70_reset_and_hazards.md R166, spec/93_implementation_defined.md U9, D26, C4; log 16). -/

namespace Sys2Proof.Machine

/-- SHA (zero page),Y, `$93`: refused (R166, U9). -/
def execShaIndY (_p : Byte) (_s : State) : Out := .refused (.unstableOpcode 0x93)

/-- SHS absolute,Y, `$9B`: refused (R166, U9). -/
def execShsAbsY (_a : Addr) (_s : State) : Out := .refused (.unstableOpcode 0x9B)

/-- SHY absolute,X, `$9C`: refused (R166, U9). -/
def execShyAbsX (_a : Addr) (_s : State) : Out := .refused (.unstableOpcode 0x9C)

/-- SHX absolute,Y, `$9E`: refused (R166, U9). -/
def execShxAbsY (_a : Addr) (_s : State) : Out := .refused (.unstableOpcode 0x9E)

/-- SHA absolute,Y, `$9F`: refused (R166, U9). -/
def execShaAbsY (_a : Addr) (_s : State) : Out := .refused (.unstableOpcode 0x9F)

/-- LAE absolute,Y, `$BB`: refused (R166, U9). -/
def execLaeAbsY (_a : Addr) (_s : State) : Out := .refused (.unstableOpcode 0xBB)

end Sys2Proof.Machine
end

