-- ==== Sys2Proof/Machine/ZeroPage.lean ====
section
/-! DEFINITION. Zero page and zero page indexed addressing (spec/43_zero_page.md R100 to R105). -/

namespace Sys2Proof.Machine

/-- Rows 1 and 2 of zero page addressing (R100, R101, R102). -/
def zeroPageRows (zp : Byte) : List Cycle := [.fetchOpcode, .fetchZeroPage zp]

/-- Rows 1 to 3 of zero page indexed addressing (R103, R104, R105): the sum wraps inside page zero. -/
def zeroPageIndexedRows (i : Index) (zp : Byte) : List Cycle := [.fetchOpcode, .fetchZeroPage zp, .addIndexZeroPage i]

/-- Zero page Read (R100). -/
def zeroPageRead (m : Mnemonic) (zp : Byte) (s : State) : Out := runRead m (zeroPageRows zp ++ [.readEffective]) s

/-- Zero page Read-Modify-Write (R101). -/
def zeroPageRmw (m : Mnemonic) (zp : Byte) (s : State) : Out :=
  runPlain (zeroPageRows zp ++ [.readEffective, .writeBack, .writeNew m]) s

/-- Zero page Write (R102). -/
def zeroPageWrite (m : Mnemonic) (zp : Byte) (s : State) : Out := runPlain (zeroPageRows zp ++ [.writeRegister m]) s

/-- Zero page indexed Read (R103). -/
def zeroPageIndexedRead (m : Mnemonic) (i : Index) (zp : Byte) (s : State) : Out :=
  runRead m (zeroPageIndexedRows i zp ++ [.readEffective]) s

/-- Zero page indexed Read-Modify-Write (R104). -/
def zeroPageIndexedRmw (m : Mnemonic) (i : Index) (zp : Byte) (s : State) : Out :=
  runPlain (zeroPageIndexedRows i zp ++ [.readEffective, .writeBack, .writeNew m]) s

/-- Zero page indexed Write (R105). -/
def zeroPageIndexedWrite (m : Mnemonic) (i : Index) (zp : Byte) (s : State) : Out :=
  runPlain (zeroPageIndexedRows i zp ++ [.writeRegister m]) s

/-- NOP zero page, `$04` (R100). -/
def execNopZp04 (zp : Byte) (s : State) : Out := zeroPageRead .nop zp s

/-- ORA zero page, `$05` (R100). -/
def execOraZp (zp : Byte) (s : State) : Out := zeroPageRead .ora zp s

/-- ASL zero page, `$06` (R101). -/
def execAslZp (zp : Byte) (s : State) : Out := zeroPageRmw .asl zp s

/-- SLO zero page, `$07` (R101). -/
def execSloZp (zp : Byte) (s : State) : Out := zeroPageRmw .slo zp s

/-- NOP zero page,X, `$14` (R103). -/
def execNopZpX14 (zp : Byte) (s : State) : Out := zeroPageIndexedRead .nop .x zp s

/-- ORA zero page,X, `$15` (R103). -/
def execOraZpX (zp : Byte) (s : State) : Out := zeroPageIndexedRead .ora .x zp s

/-- ASL zero page,X, `$16` (R104). -/
def execAslZpX (zp : Byte) (s : State) : Out := zeroPageIndexedRmw .asl .x zp s

/-- SLO zero page,X, `$17` (R104). -/
def execSloZpX (zp : Byte) (s : State) : Out := zeroPageIndexedRmw .slo .x zp s

/-- BIT zero page, `$24` (R100). -/
def execBitZp (zp : Byte) (s : State) : Out := zeroPageRead .bit zp s

/-- AND zero page, `$25` (R100). -/
def execAndZp (zp : Byte) (s : State) : Out := zeroPageRead .and zp s

/-- ROL zero page, `$26` (R101). -/
def execRolZp (zp : Byte) (s : State) : Out := zeroPageRmw .rol zp s

/-- RLA zero page, `$27` (R101). -/
def execRlaZp (zp : Byte) (s : State) : Out := zeroPageRmw .rla zp s

/-- NOP zero page,X, `$34` (R103). -/
def execNopZpX34 (zp : Byte) (s : State) : Out := zeroPageIndexedRead .nop .x zp s

/-- AND zero page,X, `$35` (R103). -/
def execAndZpX (zp : Byte) (s : State) : Out := zeroPageIndexedRead .and .x zp s

/-- ROL zero page,X, `$36` (R104). -/
def execRolZpX (zp : Byte) (s : State) : Out := zeroPageIndexedRmw .rol .x zp s

/-- RLA zero page,X, `$37` (R104). -/
def execRlaZpX (zp : Byte) (s : State) : Out := zeroPageIndexedRmw .rla .x zp s

/-- NOP zero page, `$44` (R100). -/
def execNopZp44 (zp : Byte) (s : State) : Out := zeroPageRead .nop zp s

/-- EOR zero page, `$45` (R100). -/
def execEorZp (zp : Byte) (s : State) : Out := zeroPageRead .eor zp s

/-- LSR zero page, `$46` (R101). -/
def execLsrZp (zp : Byte) (s : State) : Out := zeroPageRmw .lsr zp s

/-- SRE zero page, `$47` (R101). -/
def execSreZp (zp : Byte) (s : State) : Out := zeroPageRmw .sre zp s

/-- NOP zero page,X, `$54` (R103). -/
def execNopZpX54 (zp : Byte) (s : State) : Out := zeroPageIndexedRead .nop .x zp s

/-- EOR zero page,X, `$55` (R103). -/
def execEorZpX (zp : Byte) (s : State) : Out := zeroPageIndexedRead .eor .x zp s

/-- LSR zero page,X, `$56` (R104). -/
def execLsrZpX (zp : Byte) (s : State) : Out := zeroPageIndexedRmw .lsr .x zp s

/-- SRE zero page,X, `$57` (R104). -/
def execSreZpX (zp : Byte) (s : State) : Out := zeroPageIndexedRmw .sre .x zp s

/-- NOP zero page, `$64` (R100). -/
def execNopZp64 (zp : Byte) (s : State) : Out := zeroPageRead .nop zp s

/-- ADC zero page, `$65` (R100). -/
def execAdcZp (zp : Byte) (s : State) : Out := zeroPageRead .adc zp s

/-- ROR zero page, `$66` (R101). -/
def execRorZp (zp : Byte) (s : State) : Out := zeroPageRmw .ror zp s

/-- RRA zero page, `$67` (R101). -/
def execRraZp (zp : Byte) (s : State) : Out := zeroPageRmw .rra zp s

/-- NOP zero page,X, `$74` (R103). -/
def execNopZpX74 (zp : Byte) (s : State) : Out := zeroPageIndexedRead .nop .x zp s

/-- ADC zero page,X, `$75` (R103). -/
def execAdcZpX (zp : Byte) (s : State) : Out := zeroPageIndexedRead .adc .x zp s

/-- ROR zero page,X, `$76` (R104). -/
def execRorZpX (zp : Byte) (s : State) : Out := zeroPageIndexedRmw .ror .x zp s

/-- RRA zero page,X, `$77` (R104). -/
def execRraZpX (zp : Byte) (s : State) : Out := zeroPageIndexedRmw .rra .x zp s

/-- STY zero page, `$84` (R102). -/
def execStyZp (zp : Byte) (s : State) : Out := zeroPageWrite .sty zp s

/-- STA zero page, `$85` (R102). -/
def execStaZp (zp : Byte) (s : State) : Out := zeroPageWrite .sta zp s

/-- STX zero page, `$86` (R102). -/
def execStxZp (zp : Byte) (s : State) : Out := zeroPageWrite .stx zp s

/-- SAX zero page, `$87` (R102). -/
def execSaxZp (zp : Byte) (s : State) : Out := zeroPageWrite .sax zp s

/-- STY zero page,X, `$94` (R105). -/
def execStyZpX (zp : Byte) (s : State) : Out := zeroPageIndexedWrite .sty .x zp s

/-- STA zero page,X, `$95` (R105). -/
def execStaZpX (zp : Byte) (s : State) : Out := zeroPageIndexedWrite .sta .x zp s

/-- STX zero page,Y, `$96` (R105). -/
def execStxZpY (zp : Byte) (s : State) : Out := zeroPageIndexedWrite .stx .y zp s

/-- SAX zero page,Y, `$97` (R105). -/
def execSaxZpY (zp : Byte) (s : State) : Out := zeroPageIndexedWrite .sax .y zp s

/-- LDY zero page, `$A4` (R100). -/
def execLdyZp (zp : Byte) (s : State) : Out := zeroPageRead .ldy zp s

/-- LDA zero page, `$A5` (R100). -/
def execLdaZp (zp : Byte) (s : State) : Out := zeroPageRead .lda zp s

/-- LDX zero page, `$A6` (R100). -/
def execLdxZp (zp : Byte) (s : State) : Out := zeroPageRead .ldx zp s

/-- LAX zero page, `$A7` (R100). -/
def execLaxZp (zp : Byte) (s : State) : Out := zeroPageRead .lax zp s

/-- LDY zero page,X, `$B4` (R103). -/
def execLdyZpX (zp : Byte) (s : State) : Out := zeroPageIndexedRead .ldy .x zp s

/-- LDA zero page,X, `$B5` (R103). -/
def execLdaZpX (zp : Byte) (s : State) : Out := zeroPageIndexedRead .lda .x zp s

/-- LDX zero page,Y, `$B6` (R103). -/
def execLdxZpY (zp : Byte) (s : State) : Out := zeroPageIndexedRead .ldx .y zp s

/-- LAX zero page,Y, `$B7` (R103). -/
def execLaxZpY (zp : Byte) (s : State) : Out := zeroPageIndexedRead .lax .y zp s

/-- CPY zero page, `$C4` (R100). -/
def execCpyZp (zp : Byte) (s : State) : Out := zeroPageRead .cpy zp s

/-- CMP zero page, `$C5` (R100). -/
def execCmpZp (zp : Byte) (s : State) : Out := zeroPageRead .cmp zp s

/-- DEC zero page, `$C6` (R101). -/
def execDecZp (zp : Byte) (s : State) : Out := zeroPageRmw .dec zp s

/-- DCP zero page, `$C7` (R101). -/
def execDcpZp (zp : Byte) (s : State) : Out := zeroPageRmw .dcp zp s

/-- NOP zero page,X, `$D4` (R103). -/
def execNopZpXD4 (zp : Byte) (s : State) : Out := zeroPageIndexedRead .nop .x zp s

/-- CMP zero page,X, `$D5` (R103). -/
def execCmpZpX (zp : Byte) (s : State) : Out := zeroPageIndexedRead .cmp .x zp s

/-- DEC zero page,X, `$D6` (R104). -/
def execDecZpX (zp : Byte) (s : State) : Out := zeroPageIndexedRmw .dec .x zp s

/-- DCP zero page,X, `$D7` (R104). -/
def execDcpZpX (zp : Byte) (s : State) : Out := zeroPageIndexedRmw .dcp .x zp s

/-- CPX zero page, `$E4` (R100). -/
def execCpxZp (zp : Byte) (s : State) : Out := zeroPageRead .cpx zp s

/-- SBC zero page, `$E5` (R100). -/
def execSbcZp (zp : Byte) (s : State) : Out := zeroPageRead .sbc zp s

/-- INC zero page, `$E6` (R101). -/
def execIncZp (zp : Byte) (s : State) : Out := zeroPageRmw .inc zp s

/-- ISB zero page, `$E7` (R101). -/
def execIsbZp (zp : Byte) (s : State) : Out := zeroPageRmw .isb zp s

/-- NOP zero page,X, `$F4` (R103). -/
def execNopZpXF4 (zp : Byte) (s : State) : Out := zeroPageIndexedRead .nop .x zp s

/-- SBC zero page,X, `$F5` (R103). -/
def execSbcZpX (zp : Byte) (s : State) : Out := zeroPageIndexedRead .sbc .x zp s

/-- INC zero page,X, `$F6` (R104). -/
def execIncZpX (zp : Byte) (s : State) : Out := zeroPageIndexedRmw .inc .x zp s

/-- ISB zero page,X, `$F7` (R104). -/
def execIsbZpX (zp : Byte) (s : State) : Out := zeroPageIndexedRmw .isb .x zp s

end Sys2Proof.Machine
end

