-- ==== Sys2Proof/Machine/Dispatch.lean ====
section
/-! DEFINITION. The dispatch: one arm per constructor of Instr, in the order of the opcode table, each one call of its meaning. -/

namespace Sys2Proof.Machine

def exec (i : Instr) (s : State) : Host.Outcome State Fault Refusal :=
  match i with
  | .brk => Sys2Proof.Machine.execBrk s
  | .oraIndX p => Sys2Proof.Machine.execOraIndX p s
  | .sloIndX p => Sys2Proof.Machine.execSloIndX p s
  | .nopZp04 zp => Sys2Proof.Machine.execNopZp04 zp s
  | .oraZp zp => Sys2Proof.Machine.execOraZp zp s
  | .aslZp zp => Sys2Proof.Machine.execAslZp zp s
  | .sloZp zp => Sys2Proof.Machine.execSloZp zp s
  | .php => Sys2Proof.Machine.execPhp s
  | .oraImm v => Sys2Proof.Machine.execOraImm v s
  | .aslAcc => Sys2Proof.Machine.execAslAcc s
  | .nopAbs a => Sys2Proof.Machine.execNopAbs a s
  | .oraAbs a => Sys2Proof.Machine.execOraAbs a s
  | .aslAbs a => Sys2Proof.Machine.execAslAbs a s
  | .sloAbs a => Sys2Proof.Machine.execSloAbs a s
  | .bpl d => Sys2Proof.Machine.execBpl d s
  | .oraIndY p => Sys2Proof.Machine.execOraIndY p s
  | .sloIndY p => Sys2Proof.Machine.execSloIndY p s
  | .nopZpX14 zp => Sys2Proof.Machine.execNopZpX14 zp s
  | .oraZpX zp => Sys2Proof.Machine.execOraZpX zp s
  | .aslZpX zp => Sys2Proof.Machine.execAslZpX zp s
  | .sloZpX zp => Sys2Proof.Machine.execSloZpX zp s
  | .clc => Sys2Proof.Machine.execClc s
  | .oraAbsY a => Sys2Proof.Machine.execOraAbsY a s
  | .sloAbsY a => Sys2Proof.Machine.execSloAbsY a s
  | .nopAbsX1C a => Sys2Proof.Machine.execNopAbsX1C a s
  | .oraAbsX a => Sys2Proof.Machine.execOraAbsX a s
  | .aslAbsX a => Sys2Proof.Machine.execAslAbsX a s
  | .sloAbsX a => Sys2Proof.Machine.execSloAbsX a s
  | .jsr a => Sys2Proof.Machine.execJsr a s
  | .andIndX p => Sys2Proof.Machine.execAndIndX p s
  | .rlaIndX p => Sys2Proof.Machine.execRlaIndX p s
  | .bitZp zp => Sys2Proof.Machine.execBitZp zp s
  | .andZp zp => Sys2Proof.Machine.execAndZp zp s
  | .rolZp zp => Sys2Proof.Machine.execRolZp zp s
  | .rlaZp zp => Sys2Proof.Machine.execRlaZp zp s
  | .plp => Sys2Proof.Machine.execPlp s
  | .andImm v => Sys2Proof.Machine.execAndImm v s
  | .rolAcc => Sys2Proof.Machine.execRolAcc s
  | .bitAbs a => Sys2Proof.Machine.execBitAbs a s
  | .andAbs a => Sys2Proof.Machine.execAndAbs a s
  | .rolAbs a => Sys2Proof.Machine.execRolAbs a s
  | .rlaAbs a => Sys2Proof.Machine.execRlaAbs a s
  | .bmi d => Sys2Proof.Machine.execBmi d s
  | .andIndY p => Sys2Proof.Machine.execAndIndY p s
  | .rlaIndY p => Sys2Proof.Machine.execRlaIndY p s
  | .nopZpX34 zp => Sys2Proof.Machine.execNopZpX34 zp s
  | .andZpX zp => Sys2Proof.Machine.execAndZpX zp s
  | .rolZpX zp => Sys2Proof.Machine.execRolZpX zp s
  | .rlaZpX zp => Sys2Proof.Machine.execRlaZpX zp s
  | .sec => Sys2Proof.Machine.execSec s
  | .andAbsY a => Sys2Proof.Machine.execAndAbsY a s
  | .rlaAbsY a => Sys2Proof.Machine.execRlaAbsY a s
  | .nopAbsX3C a => Sys2Proof.Machine.execNopAbsX3C a s
  | .andAbsX a => Sys2Proof.Machine.execAndAbsX a s
  | .rolAbsX a => Sys2Proof.Machine.execRolAbsX a s
  | .rlaAbsX a => Sys2Proof.Machine.execRlaAbsX a s
  | .rti => Sys2Proof.Machine.execRti s
  | .eorIndX p => Sys2Proof.Machine.execEorIndX p s
  | .sreIndX p => Sys2Proof.Machine.execSreIndX p s
  | .nopZp44 zp => Sys2Proof.Machine.execNopZp44 zp s
  | .eorZp zp => Sys2Proof.Machine.execEorZp zp s
  | .lsrZp zp => Sys2Proof.Machine.execLsrZp zp s
  | .sreZp zp => Sys2Proof.Machine.execSreZp zp s
  | .pha => Sys2Proof.Machine.execPha s
  | .eorImm v => Sys2Proof.Machine.execEorImm v s
  | .lsrAcc => Sys2Proof.Machine.execLsrAcc s
  | .jmpAbs a => Sys2Proof.Machine.execJmpAbs a s
  | .eorAbs a => Sys2Proof.Machine.execEorAbs a s
  | .lsrAbs a => Sys2Proof.Machine.execLsrAbs a s
  | .sreAbs a => Sys2Proof.Machine.execSreAbs a s
  | .bvc d => Sys2Proof.Machine.execBvc d s
  | .eorIndY p => Sys2Proof.Machine.execEorIndY p s
  | .sreIndY p => Sys2Proof.Machine.execSreIndY p s
  | .nopZpX54 zp => Sys2Proof.Machine.execNopZpX54 zp s
  | .eorZpX zp => Sys2Proof.Machine.execEorZpX zp s
  | .lsrZpX zp => Sys2Proof.Machine.execLsrZpX zp s
  | .sreZpX zp => Sys2Proof.Machine.execSreZpX zp s
  | .cli => Sys2Proof.Machine.execCli s
  | .eorAbsY a => Sys2Proof.Machine.execEorAbsY a s
  | .sreAbsY a => Sys2Proof.Machine.execSreAbsY a s
  | .nopAbsX5C a => Sys2Proof.Machine.execNopAbsX5C a s
  | .eorAbsX a => Sys2Proof.Machine.execEorAbsX a s
  | .lsrAbsX a => Sys2Proof.Machine.execLsrAbsX a s
  | .sreAbsX a => Sys2Proof.Machine.execSreAbsX a s
  | .rts => Sys2Proof.Machine.execRts s
  | .adcIndX p => Sys2Proof.Machine.execAdcIndX p s
  | .rraIndX p => Sys2Proof.Machine.execRraIndX p s
  | .nopZp64 zp => Sys2Proof.Machine.execNopZp64 zp s
  | .adcZp zp => Sys2Proof.Machine.execAdcZp zp s
  | .rorZp zp => Sys2Proof.Machine.execRorZp zp s
  | .rraZp zp => Sys2Proof.Machine.execRraZp zp s
  | .pla => Sys2Proof.Machine.execPla s
  | .adcImm v => Sys2Proof.Machine.execAdcImm v s
  | .rorAcc => Sys2Proof.Machine.execRorAcc s
  | .jmpInd a => Sys2Proof.Machine.execJmpInd a s
  | .adcAbs a => Sys2Proof.Machine.execAdcAbs a s
  | .rorAbs a => Sys2Proof.Machine.execRorAbs a s
  | .rraAbs a => Sys2Proof.Machine.execRraAbs a s
  | .bvs d => Sys2Proof.Machine.execBvs d s
  | .adcIndY p => Sys2Proof.Machine.execAdcIndY p s
  | .rraIndY p => Sys2Proof.Machine.execRraIndY p s
  | .nopZpX74 zp => Sys2Proof.Machine.execNopZpX74 zp s
  | .adcZpX zp => Sys2Proof.Machine.execAdcZpX zp s
  | .rorZpX zp => Sys2Proof.Machine.execRorZpX zp s
  | .rraZpX zp => Sys2Proof.Machine.execRraZpX zp s
  | .sei => Sys2Proof.Machine.execSei s
  | .adcAbsY a => Sys2Proof.Machine.execAdcAbsY a s
  | .rraAbsY a => Sys2Proof.Machine.execRraAbsY a s
  | .nopAbsX7C a => Sys2Proof.Machine.execNopAbsX7C a s
  | .adcAbsX a => Sys2Proof.Machine.execAdcAbsX a s
  | .rorAbsX a => Sys2Proof.Machine.execRorAbsX a s
  | .rraAbsX a => Sys2Proof.Machine.execRraAbsX a s
  | .staIndX p => Sys2Proof.Machine.execStaIndX p s
  | .saxIndX p => Sys2Proof.Machine.execSaxIndX p s
  | .styZp zp => Sys2Proof.Machine.execStyZp zp s
  | .staZp zp => Sys2Proof.Machine.execStaZp zp s
  | .stxZp zp => Sys2Proof.Machine.execStxZp zp s
  | .saxZp zp => Sys2Proof.Machine.execSaxZp zp s
  | .dey => Sys2Proof.Machine.execDey s
  | .txa => Sys2Proof.Machine.execTxa s
  | .styAbs a => Sys2Proof.Machine.execStyAbs a s
  | .staAbs a => Sys2Proof.Machine.execStaAbs a s
  | .stxAbs a => Sys2Proof.Machine.execStxAbs a s
  | .saxAbs a => Sys2Proof.Machine.execSaxAbs a s
  | .bcc d => Sys2Proof.Machine.execBcc d s
  | .staIndY p => Sys2Proof.Machine.execStaIndY p s
  | .shaIndY p => Sys2Proof.Machine.execShaIndY p s
  | .styZpX zp => Sys2Proof.Machine.execStyZpX zp s
  | .staZpX zp => Sys2Proof.Machine.execStaZpX zp s
  | .stxZpY zp => Sys2Proof.Machine.execStxZpY zp s
  | .saxZpY zp => Sys2Proof.Machine.execSaxZpY zp s
  | .tya => Sys2Proof.Machine.execTya s
  | .staAbsY a => Sys2Proof.Machine.execStaAbsY a s
  | .txs => Sys2Proof.Machine.execTxs s
  | .shsAbsY a => Sys2Proof.Machine.execShsAbsY a s
  | .shyAbsX a => Sys2Proof.Machine.execShyAbsX a s
  | .staAbsX a => Sys2Proof.Machine.execStaAbsX a s
  | .shxAbsY a => Sys2Proof.Machine.execShxAbsY a s
  | .shaAbsY a => Sys2Proof.Machine.execShaAbsY a s
  | .ldyImm v => Sys2Proof.Machine.execLdyImm v s
  | .ldaIndX p => Sys2Proof.Machine.execLdaIndX p s
  | .ldxImm v => Sys2Proof.Machine.execLdxImm v s
  | .laxIndX p => Sys2Proof.Machine.execLaxIndX p s
  | .ldyZp zp => Sys2Proof.Machine.execLdyZp zp s
  | .ldaZp zp => Sys2Proof.Machine.execLdaZp zp s
  | .ldxZp zp => Sys2Proof.Machine.execLdxZp zp s
  | .laxZp zp => Sys2Proof.Machine.execLaxZp zp s
  | .tay => Sys2Proof.Machine.execTay s
  | .ldaImm v => Sys2Proof.Machine.execLdaImm v s
  | .tax => Sys2Proof.Machine.execTax s
  | .ldyAbs a => Sys2Proof.Machine.execLdyAbs a s
  | .ldaAbs a => Sys2Proof.Machine.execLdaAbs a s
  | .ldxAbs a => Sys2Proof.Machine.execLdxAbs a s
  | .laxAbs a => Sys2Proof.Machine.execLaxAbs a s
  | .bcs d => Sys2Proof.Machine.execBcs d s
  | .ldaIndY p => Sys2Proof.Machine.execLdaIndY p s
  | .laxIndY p => Sys2Proof.Machine.execLaxIndY p s
  | .ldyZpX zp => Sys2Proof.Machine.execLdyZpX zp s
  | .ldaZpX zp => Sys2Proof.Machine.execLdaZpX zp s
  | .ldxZpY zp => Sys2Proof.Machine.execLdxZpY zp s
  | .laxZpY zp => Sys2Proof.Machine.execLaxZpY zp s
  | .clv => Sys2Proof.Machine.execClv s
  | .ldaAbsY a => Sys2Proof.Machine.execLdaAbsY a s
  | .tsx => Sys2Proof.Machine.execTsx s
  | .laeAbsY a => Sys2Proof.Machine.execLaeAbsY a s
  | .ldyAbsX a => Sys2Proof.Machine.execLdyAbsX a s
  | .ldaAbsX a => Sys2Proof.Machine.execLdaAbsX a s
  | .ldxAbsY a => Sys2Proof.Machine.execLdxAbsY a s
  | .laxAbsY a => Sys2Proof.Machine.execLaxAbsY a s
  | .cpyImm v => Sys2Proof.Machine.execCpyImm v s
  | .cmpIndX p => Sys2Proof.Machine.execCmpIndX p s
  | .dcpIndX p => Sys2Proof.Machine.execDcpIndX p s
  | .cpyZp zp => Sys2Proof.Machine.execCpyZp zp s
  | .cmpZp zp => Sys2Proof.Machine.execCmpZp zp s
  | .decZp zp => Sys2Proof.Machine.execDecZp zp s
  | .dcpZp zp => Sys2Proof.Machine.execDcpZp zp s
  | .iny => Sys2Proof.Machine.execIny s
  | .cmpImm v => Sys2Proof.Machine.execCmpImm v s
  | .dex => Sys2Proof.Machine.execDex s
  | .cpyAbs a => Sys2Proof.Machine.execCpyAbs a s
  | .cmpAbs a => Sys2Proof.Machine.execCmpAbs a s
  | .decAbs a => Sys2Proof.Machine.execDecAbs a s
  | .dcpAbs a => Sys2Proof.Machine.execDcpAbs a s
  | .bne d => Sys2Proof.Machine.execBne d s
  | .cmpIndY p => Sys2Proof.Machine.execCmpIndY p s
  | .dcpIndY p => Sys2Proof.Machine.execDcpIndY p s
  | .nopZpXD4 zp => Sys2Proof.Machine.execNopZpXD4 zp s
  | .cmpZpX zp => Sys2Proof.Machine.execCmpZpX zp s
  | .decZpX zp => Sys2Proof.Machine.execDecZpX zp s
  | .dcpZpX zp => Sys2Proof.Machine.execDcpZpX zp s
  | .cld => Sys2Proof.Machine.execCld s
  | .cmpAbsY a => Sys2Proof.Machine.execCmpAbsY a s
  | .dcpAbsY a => Sys2Proof.Machine.execDcpAbsY a s
  | .nopAbsXDC a => Sys2Proof.Machine.execNopAbsXDC a s
  | .cmpAbsX a => Sys2Proof.Machine.execCmpAbsX a s
  | .decAbsX a => Sys2Proof.Machine.execDecAbsX a s
  | .dcpAbsX a => Sys2Proof.Machine.execDcpAbsX a s
  | .cpxImm v => Sys2Proof.Machine.execCpxImm v s
  | .sbcIndX p => Sys2Proof.Machine.execSbcIndX p s
  | .isbIndX p => Sys2Proof.Machine.execIsbIndX p s
  | .cpxZp zp => Sys2Proof.Machine.execCpxZp zp s
  | .sbcZp zp => Sys2Proof.Machine.execSbcZp zp s
  | .incZp zp => Sys2Proof.Machine.execIncZp zp s
  | .isbZp zp => Sys2Proof.Machine.execIsbZp zp s
  | .inx => Sys2Proof.Machine.execInx s
  | .sbcImm v => Sys2Proof.Machine.execSbcImm v s
  | .nop => Sys2Proof.Machine.execNop s
  | .cpxAbs a => Sys2Proof.Machine.execCpxAbs a s
  | .sbcAbs a => Sys2Proof.Machine.execSbcAbs a s
  | .incAbs a => Sys2Proof.Machine.execIncAbs a s
  | .isbAbs a => Sys2Proof.Machine.execIsbAbs a s
  | .beq d => Sys2Proof.Machine.execBeq d s
  | .sbcIndY p => Sys2Proof.Machine.execSbcIndY p s
  | .isbIndY p => Sys2Proof.Machine.execIsbIndY p s
  | .nopZpXF4 zp => Sys2Proof.Machine.execNopZpXF4 zp s
  | .sbcZpX zp => Sys2Proof.Machine.execSbcZpX zp s
  | .incZpX zp => Sys2Proof.Machine.execIncZpX zp s
  | .isbZpX zp => Sys2Proof.Machine.execIsbZpX zp s
  | .sed => Sys2Proof.Machine.execSed s
  | .sbcAbsY a => Sys2Proof.Machine.execSbcAbsY a s
  | .isbAbsY a => Sys2Proof.Machine.execIsbAbsY a s
  | .nopAbsXFC a => Sys2Proof.Machine.execNopAbsXFC a s
  | .sbcAbsX a => Sys2Proof.Machine.execSbcAbsX a s
  | .incAbsX a => Sys2Proof.Machine.execIncAbsX a s
  | .isbAbsX a => Sys2Proof.Machine.execIsbAbsX a s

end Sys2Proof.Machine
end

