-- ==== Sys2Proof/Machine/Step.lean ====
section
/-! DEFINITION. One instruction step (spec/70_reset_and_hazards.md R165): the bytes at PC are decoded and the instruction is executed,
its rows being every bus access of the step, the opcode fetch included. A byte without a row is refused by name (R58, R166). -/

namespace Sys2Proof.Machine

/-- One instruction step. -/
def step (s : State) : Host.Outcome State Fault Refusal :=
  match decode (fetchBytes s) with
  | .ok (i, _) => exec i s
  | .error _ => .refused (.unlistedOpcode (opcodeAtPc s))

/-- `s` with an instruction's bytes stored at PC, where the next step fetches; an address of these three that is no memory becomes
plain memory (log 5). -/
def State.withFetchWord (s : State) (nbits w : Nat) : State :=
  (s.setMem (storeBytes s.mem s.pc (wordBytes nbits w))).setPlatform
    (withMemoryAt (withMemoryAt (withMemoryAt s.platform s.pc) (s.pc + 1)) (s.pc + 2))

end Sys2Proof.Machine
end

