-- ==== Sys2Proof/Safety.lean ====
section
/-! DEFINITION. The terms claims are made in: a well-formed machine between two instructions, the accesses an instruction adds to the
bus trace, what memory it leaves alone, memory explained by the trace, and a run up to `HaltAddr` (spec/70_reset_and_hazards.md
R165, R166). -/

namespace Sys2Proof.Safety

open Sys2Proof.Machine

/-- Between two instructions T is 1 and no temporary is alive (R19, R20, R160). -/
def AtBoundary (s : State) : Prop := s.t = 1 ∧ s.tmp = Temps.dead

/-- The invariant of the machine: memory in canonical form, at an instruction boundary. -/
def MachineInv (s : State) : Prop := s.mem.wf = true ∧ AtBoundary s

/-- The memory that a sequence of accesses leaves, or none if a read among them did not give the byte that the platform answers at
that moment: single agent, accesses in order, each read answered from the history before it (newest first) and, where memory
stands, by the latest write (R38, R40). -/
def replay (p : Platform) : List BusEvent → List BusEvent → Memory → Option Memory
  | [], _, m => some m
  | ⟨a, .read, b⟩ :: rest, history, m =>
    if platformRead p m history a = b then replay p rest (⟨a, .read, b⟩ :: history) m else none
  | ⟨a, .write, b⟩ :: rest, history, m => replay p rest (⟨a, .write, b⟩ :: history) (platformWrite p m a b)

/-- From `s`, an instruction has ended in `t` with these registers, this PC and exactly these further bus accesses, in this order, at
an instruction boundary; IR holds the byte that was read at PC. `explained` says of every read among the accesses that its byte is the one
that the platform answers at that moment, and of memory that it is what the writes among them leave (R38, R40). -/
structure Ended (s t : State) (regs : Regs) (pc : Addr) (accesses : List BusEvent) : Prop where
  regs_eq : t.regs = regs
  pc_eq : t.pc = pc
  trace_eq : t.trace = s.trace ++ accesses
  explained : replay s.platform accesses s.bus s.mem = some t.mem
  platform_eq : t.platform = s.platform
  ir_eq : t.ir = opcodeAtPc s
  boundary : AtBoundary t

/-- The address is memory, plain or read-only (R38). -/
def Backed (s : State) (a : Addr) : Prop := regionKind s.platform a = .plain ∨ regionKind s.platform a = .readOnly

/-- The address is plain read-write memory (R38). -/
def Plain (s : State) (a : Addr) : Prop := regionKind s.platform a = .plain

/-- The byte memory holds at an address after a write of `b` there: `b` where the address is plain memory, else what it held (R38). -/
def stored (s : State) (a : Addr) (b : Byte) : Byte := if regionKind s.platform a = .plain then b else readByte s.mem a

/-- Every byte of memory outside the listed addresses reads as before. -/
def SameOutside (as : List Addr) (s t : State) : Prop := ∀ b : Addr, b ∉ as → readByte t.mem b = readByte s.mem b

/-- How a run that a harness stops at `HaltAddr` ends (R166). -/
inductive RunEnd where
  /-- PC is `HaltAddr` at an instruction boundary: the run has ended successfully -/
  | halted (s : State)
  /-- the run has ended with `Refused` -/
  | refused (r : Refusal)
  /-- neither, after the given number of instructions -/
  | running (s : State)
deriving DecidableEq, Repr

/-- At most `n` instructions, stopping before the fetch at `HaltAddr` (R166, log 14). -/
def runTo (haltAddr : Addr) : Nat → State → RunEnd
  | 0, s => if s.pc = haltAddr then .halted s else .running s
  | n + 1, s =>
    if s.pc = haltAddr then .halted s
    else
      match step s with
      | .next t => runTo haltAddr n t
      | .refused r => .refused r

end Sys2Proof.Safety
end

