-- ==== Sys2Proof/Certificates/Slice0/Obligations.lean ====
section
/-! DEFINITION. The statements for the provers, most of them numbered rules of spec/ in the terms of Sys2Proof/Safety.lean.
`Ended s t r p es` says: registers r, program counter p, exactly the accesses es added to the bus trace, every byte of a read in es
the one that the platform answers at that moment (R38), memory what the writes in es leave, IR the byte read at the old PC, T = 1,
temporaries dead. So the bytes b0, b1, v, lo, hi ... under a statement's `∃` are no choice: `Ended` determines each. `stored s a b` is
b where a is plain memory, else what memory held. The data operations readOp, rmwOp, impliedOp, immOp and SAX's storeVal and the
answers of devices and unpopulated addresses are the spec's parameters (R8, R38, log 2, log 6, log 24): every statement holds for
every choice of them. -/

open Sys2Proof Sys2Proof.Machine Sys2Proof.Safety

/-- For every instruction of the opcode map, with every operand, and whatever bytes follow: decoding its bytes followed by those gives
exactly that instruction and exactly those bytes. (30_encoding.md R50, 30_encoding.md R51, 30_encoding.md R53, 30_encoding.md R56) -/
def Obligations.DecodeOfEncodeGivesTheInstruction : Prop :=
  ∀ (i : Instr) (rest : List Byte), decode (encode i ++ rest) = .ok (i, rest)

/-- If bytes decode to an instruction and a rest, then the bytes are the encoding of that instruction followed by that rest: no other
bytes decode to it and no bit of it is ignored. (30_encoding.md R50, 30_encoding.md R54, 30_encoding.md R56) -/
def Obligations.DecodedBytesAreTheEncoding : Prop :=
  ∀ (bs : List Byte) (i : Instr) (rest : List Byte), decode bs = .ok (i, rest) → bs = encode i ++ rest

/-- The example encodings of the syntax table (PHA, ASL A, LDA #$10, LDA $10, LDX $10,Y, JSR $1234, STA $1234,X, BNE with displacement
3, LDA ($10,X), LDA ($10),Y, JMP ($1234), BRK) decode to those instructions. (30_encoding.md R60, 30_encoding.md R55,
30_encoding.md R56) -/
def Obligations.SampleWordsDecodeAsTheSpecWritesThem : Prop :=
  decode [0x48] = .ok (.pha, []) ∧ decode [0x0A] = .ok (.aslAcc, []) ∧ decode [0xA9, 0x10] = .ok (.ldaImm 0x10, []) ∧
    decode [0xA5, 0x10] = .ok (.ldaZp 0x10, []) ∧ decode [0xB6, 0x10] = .ok (.ldxZpY 0x10, []) ∧
    decode [0x20, 0x34, 0x12] = .ok (.jsr 0x1234, []) ∧ decode [0x9D, 0x34, 0x12] = .ok (.staAbsX 0x1234, []) ∧
    decode [0xD0, 0x03] = .ok (.bne 0x03, []) ∧ decode [0xA1, 0x10] = .ok (.ldaIndX 0x10, []) ∧
    decode [0xB1, 0x10] = .ok (.ldaIndY 0x10, []) ∧ decode [0x6C, 0x34, 0x12] = .ok (.jmpInd 0x1234, []) ∧
    decode [0x00, 0x00] = .ok (.brk, [0x00])

/-- For each of the 31 bytes: decoding it (whatever follows) is the error that names it, and a step whose bus read at PC gives it is
refused with that byte. Every other opcode byte, followed by two bytes, decodes to an instruction with that opcode byte. (R58) -/
def Obligations.UnlistedOpcodesAreRefused : Prop :=
  let unlisted : List Byte :=
    [ 0x02, 0x0B, 0x12, 0x1A, 0x22, 0x2B, 0x32, 0x3A, 0x42, 0x4B, 0x52, 0x5A, 0x62, 0x6B, 0x72, 0x7A,
      0x80, 0x82, 0x89, 0x8B, 0x92, 0xAB, 0xB2, 0xC2, 0xCB, 0xD2, 0xDA, 0xE2, 0xEB, 0xF2, 0xFA ]
  (∀ b ∈ unlisted, ∀ rest : List Byte, decode (b :: rest) = .error (.unlistedOpcode b)) ∧
  (∀ s : State, s.busRead s.pc ∈ unlisted → step s = .refused (.unlistedOpcode (s.busRead s.pc))) ∧
  (∀ b : Byte, b ∉ unlisted → ∀ (x y : Byte) (rest : List Byte),
    ∃ i r, decode (b :: x :: y :: rest) = .ok (i, r) ∧ i.opcode = b)

/-- The six rows whose treatment is refuse (SHA $93 and $9F, SHX $9E, SHY $9C, SHS $9B, LAE $BB) are refused in every state with every
operand; a step at a byte that does not decode is refused; a run ends successfully, before any fetch, when PC is HaltAddr. (R166) -/
def Obligations.HowARunEnds : Prop :=
  ∀ (p : Byte) (a : Addr) (s : State),
    exec (.shaIndY p) s = .refused (.unstableOpcode 0x93) ∧ exec (.shaAbsY a) s = .refused (.unstableOpcode 0x9F) ∧
    exec (.shxAbsY a) s = .refused (.unstableOpcode 0x9E) ∧ exec (.shyAbsX a) s = .refused (.unstableOpcode 0x9C) ∧
    exec (.shsAbsY a) s = .refused (.unstableOpcode 0x9B) ∧ exec (.laeAbsY a) s = .refused (.unstableOpcode 0xBB) ∧
    (∀ e, decode (fetchBytes s) = .error e → step s = .refused (.unlistedOpcode (s.busRead s.pc))) ∧
    (∀ n, runTo s.pc n s = .halted s) ∧
    (∀ h n, s.pc ≠ h → runTo h (n + 1) s =
      match step s with
      | .next t => runTo h n t
      | .refused r => .refused r)

/-- When the bytes that three consecutive bus reads at PC, PC+1 and PC+2 (modulo 2^16) would get from the platform decode to an
instruction, the step is exec of that instruction at that state; nothing is added around it (the opcode fetch and every increment
of PC are rows of the instruction itself). (70_reset_and_hazards.md R165, 30_encoding.md R50) -/
def Obligations.StepRunsTheDecodedInstruction : Prop :=
  ∀ (s : State) (i : Instr) (rest : List Byte),
    decode [s.busRead s.pc, (s.afterRead s.pc).busRead (s.pc + 1),
      ((s.afterRead s.pc).afterRead (s.pc + 1)).busRead (s.pc + 2)] = .ok (i, rest) → step s = exec i s

/-- For every instruction i and every state in which the addresses of its bytes from PC on (modulo 2^16) are memory, plain or
read-only, and hold the encoding of i: step is exec i. (70_reset_and_hazards.md R165, 30_encoding.md R50, 30_encoding.md R53,
20_memory.md R38) -/
def Obligations.MemoryHoldingAnInstructionRunsIt : Prop :=
  ∀ (i : Instr) (s : State),
    (∀ k < (encode i).length, Backed s (s.pc + BitVec.ofNat 16 k)) →
    encode i <+: [readByte s.mem s.pc, readByte s.mem (s.pc + 1), readByte s.mem (s.pc + 2)] → step s = exec i s

/-- For every state, whatever stands on its bus, and every word whose bits decode to an instruction i: after withFetchWord, which is
the model's own way to load an instruction (log 5), the step is exec i. (70_reset_and_hazards.md R160, 70_reset_and_hazards.md
R165, 30_encoding.md R50) -/
def Obligations.LoadedWordIsTheNextInstruction : Prop :=
  ∀ (nbits w : Nat) (i : Instr) (s : State), decodeTableWord nbits w = some i →
    step (s.withFetchWord nbits w) = exec i (s.withFetchWord nbits w)

/-- When the fetched bytes decode to an instruction i and the step completes, the step's first accesses are reads at PC, PC+1, ...
that get the bytes of the encoding of i in order; for JSR this is said of its first two bytes, since its third is read after its
pushes. (20_memory.md R43, 20_memory.md R35, 00_scope.md R1) -/
def Obligations.TheFetchRowsGetTheEncoding : Prop :=
  ∀ (s t : State) (i : Instr) (rest : List Byte),
    decode [s.busRead s.pc, (s.afterRead s.pc).busRead (s.pc + 1),
      ((s.afterRead s.pc).afterRead (s.pc + 1)).busRead (s.pc + 2)] = .ok (i, rest) → step s = .next t →
    let fetched := (encode i).take (if i.mnemonic = .jsr then 2 else 3)
    ∃ es, t.trace = s.trace ++ fetched.mapIdx (fun k b => rd (s.pc + BitVec.ofNat 16 k) b) ++ es

/-- State.reset meets the invariant: memory in canonical form, T = 1, every temporary dead. (T = 1 is the spec's; what the registers
hold is the model's choice, log 4, and is not stated here.) (10_state.md R22, 70_reset_and_hazards.md R160) -/
def Obligations.ResetMeetsTheInvariant : Prop :=
  MachineInv State.reset

/-- For every state that meets the invariant (canonical memory, T = 1, temporaries dead) and every next state of a step from it, that
next state meets it too, whatever the free data operations are. (10_state.md R19, 10_state.md R20, 70_reset_and_hazards.md R165,
20_memory.md R38) -/
def Obligations.StepKeepsTheInvariant : Prop :=
  ∀ s t : State, MachineInv s → step s = .next t → MachineInv t

/-- Every step adds a sequence of accesses at the end of the bus trace such that, starting from the memory and the history before,
every read in it gives the byte the platform answers at that moment, and after all writes in it memory is the memory after; what
stands on the bus is unchanged. No memory changes but by a bus write. (20_memory.md R38, 20_memory.md R40, 20_memory.md R39,
00_scope.md R1) -/
def Obligations.BusTraceExplainsMemory : Prop :=
  ∀ s t : State, step s = .next t →
    ∃ es : List BusEvent, t.trace = s.trace ++ es ∧ replay s.platform es s.bus s.mem = some t.mem ∧ t.platform = s.platform

/-- Take any step, the accesses it adds, and a read among them. Plain memory gives the byte of the latest write to that address among
the accesses before it, or what memory held before the step if there is none; read-only memory gives what it holds; a device
answers from the whole history before the read, and so does an address the platform does not populate, each with a function that
is free. After the step a plain address holds the byte of the latest write to it, or what it held; every other address holds what
it held. That a platform is a list of regions of these four kinds, and that read-only memory discards a write, is the model's form
of the rule (log 2, log 24); the two functions are free, so the statement holds for every choice of them. (20_memory.md R38,
93_implementation_defined.md U8) -/
def Obligations.EveryReadIsAnsweredByThePlatform : Prop :=
  ∀ s t : State, step s = .next t → ∃ es : List BusEvent, t.trace = s.trace ++ es ∧
    (let latest : List BusEvent → Addr → Byte := fun before a =>
      ((before.reverse.find? fun e => e.kind = .write ∧ e.addr = a).map (·.byte)).getD (readByte s.mem a)
    (∀ (before after : List BusEvent) (a : Addr) (b : Byte), es = before ++ rd a b :: after →
      match regionKind s.platform a with
      | .plain => b = latest before a
      | .readOnly => b = readByte s.mem a
      | .device => b = Config.deviceRead (before.reverse ++ s.bus) a
      | .unpopulated => b = Config.unpopulatedRead (before.reverse ++ s.bus) a) ∧
    ∀ a : Addr, readByte t.mem a = if regionKind s.platform a = .plain then latest es a else readByte s.mem a)

/-- Every step adds to the bus trace a read at PC, with the byte the platform answers, followed by one to seven further accesses.
(70_reset_and_hazards.md R164, 00_scope.md R1, 10_state.md R14) -/
def Obligations.EveryStepFetchesAtPcAndTakesTwoToEightAccesses : Prop :=
  ∀ s t : State, step s = .next t →
    ∃ es : List BusEvent, t.trace = s.trace ++ rd s.pc (s.busRead s.pc) :: es ∧ 1 ≤ es.length ∧ es.length ≤ 7

/-- In every state an instruction answers a next state exactly when its mnemonic is none of SHA, SHX, SHY, SHS, LAE. (60_exceptions.md
R140, 60_exceptions.md R149, 70_reset_and_hazards.md R166) -/
def Obligations.ExactlyTheUnstableRowsStop : Prop :=
  ∀ (i : Instr) (s : State),
    (∃ t, exec i s = .next t) ↔ i.mnemonic ∉ [Mnemonic.sha, .shx, .shy, .shs, .lae]

/-- For every instruction but BRK, RTI, RTS, JSR, JMP and the branches, in every state in which it answers a next state, PC has
advanced by the length of its encoding, modulo 2^16. (10_state.md R14) -/
def Obligations.SequentialInstructionsAdvancePcByTheirLength : Prop :=
  ∀ (i : Instr) (s t : State), exec i s = .next t → i.mnemonic ∉ [Mnemonic.brk, .rti, .rts, .jsr, .jmp] →
    i.mode ≠ .relative → t.pc = s.pc + BitVec.ofNat 16 (encode i).length

/-- For the eight stack instructions, JMP and the branches: X and Y are unchanged; A is unchanged but by PLA; the flags are unchanged
but by PLA, PLP, RTI and BRK; S is unchanged by JMP and the branches. (10_state.md R12, 10_state.md R13, 10_state.md R18,
40_stack_instructions.md R70) -/
def Obligations.TierOneAndTwoRegisterFrame : Prop :=
  ∀ (i : Instr) (s t : State), exec i s = .next t →
    i.mnemonic ∈ [Mnemonic.brk, .rti, .rts, .pha, .php, .pla, .plp, .jsr, .jmp, .bpl, .bmi, .bvc, .bvs, .bcc, .bcs, .bne, .beq] →
    t.regs.x = s.regs.x ∧ t.regs.y = s.regs.y ∧
    (i.mnemonic ≠ .pla → t.regs.a = s.regs.a) ∧
    (i.mnemonic ∉ [Mnemonic.pla, .plp, .rti, .brk] → t.regs.p = s.regs.p) ∧
    (i.mnemonic ∉ [Mnemonic.brk, .rti, .rts, .pha, .php, .pla, .plp, .jsr] → t.regs.s = s.regs.s)

/-- PushByte(P, b) is 128 N + 64 V + 32 + 16 b + 8 D + 4 I + 2 Z + C; the fifth access of BRK and the third of PHP write it with b =
1. (R16) -/
def Obligations.PushedImageOfTheFlags : Prop :=
  (∀ (p : Flags) (b : Bool), (pushByte p b).toNat =
      128 * p.n.toNat + 64 * p.v.toNat + 32 + 16 * b.toNat + 8 * p.d.toNat + 4 * p.i.toNat + 2 * p.z.toNat + p.c.toNat) ∧
  (∀ s : State, ∃ t es, exec .brk s = .next t ∧ t.trace = s.trace ++ es ∧
    es[4]? = some (wr (stackAddr (s.regs.s - 2)) (pushByte s.regs.p true))) ∧
  (∀ s : State, ∃ t es, exec .php s = .next t ∧ t.trace = s.trace ++ es ∧
    es[2]? = some (wr (stackAddr s.regs.s) (pushByte s.regs.p true)))

/-- PullP(PushByte(P, b)) = P for both b, PushByte(PullP(v), 1) = v OR $30, and PullP takes N, V, D, I, Z, C from bits 7, 6, 3, 2, 1,
0. (10_state.md R16, 10_state.md R17, 95_test_vectors.md Q7) -/
def Obligations.PullingInvertsPushingTheFlags : Prop :=
  (∀ (p : Flags) (b : Bool), pullP (pushByte p b) = p) ∧ (∀ v : Byte, pushByte (pullP v) true = v ||| 0x30) ∧
  (∀ v : Byte, pullP v =
    { n := v.getLsbD 7, v := v.getLsbD 6, d := v.getLsbD 3, i := v.getLsbD 2, z := v.getLsbD 1, c := v.getLsbD 0 })

/-- From every state BRK completes: PCH and PCL of PC+2 are written at StackAddr(S) and StackAddr(S-1), the flag image with bits 5 and
4 set at StackAddr(S-2), and plain memory there holds them after; S drops by 3, PC is the little-endian word that the reads at
$FFFE and $FFFF get (what memory held there before, where memory stands there), I is 1, A, X, Y and the other flags are unchanged,
every other byte of memory reads as before, and the seven accesses are those of the table. (R71, R141) -/
def Obligations.BrkTakesTheTrap : Prop :=
  ∀ s : State,
    let ret := s.pc + 2
    let a0 := stackAddr s.regs.s
    let a1 := stackAddr (s.regs.s - 1)
    let a2 := stackAddr (s.regs.s - 2)
    let image := pushByte s.regs.p true
    ∃ t b0 b1 lo hi, exec .brk s = .next t ∧
      Ended s t { s.regs with s := s.regs.s - 3, p := { s.regs.p with i := true } } (addrOf hi lo)
        [rd s.pc b0, rd (s.pc + 1) b1, wr a0 (highByte ret), wr a1 (lowByte ret), wr a2 image, rd 0xFFFE lo, rd 0xFFFF hi] ∧
      (Backed s 0xFFFE → lo = readByte s.mem 0xFFFE) ∧ (Backed s 0xFFFF → hi = readByte s.mem 0xFFFF) ∧
      readByte t.mem a0 = stored s a0 (highByte ret) ∧ readByte t.mem a1 = stored s a1 (lowByte ret) ∧
      readByte t.mem a2 = stored s a2 image ∧ SameOutside [a0, a1, a2] s t

/-- From every state RTI completes: the six flags come from the byte that the read at StackAddr(S+1) gets (bits 5 and 4 discarded), PC
is the word that the reads at StackAddr(S+2) and StackAddr(S+3) get, low byte first, S rises by 3, A, X, Y and memory are
unchanged, and the six reads are those of the table; where memory stands at these addresses the three bytes are what it holds.
(R72) -/
def Obligations.RtiReturnsFromTheTrap : Prop :=
  ∀ s : State,
    let a1 := stackAddr (s.regs.s + 1)
    let a2 := stackAddr (s.regs.s + 2)
    let a3 := stackAddr (s.regs.s + 3)
    ∃ t b0 b1 b2 v lo hi, exec .rti s = .next t ∧
      Ended s t
        { s.regs with
          s := s.regs.s + 3
          p := { n := v.getLsbD 7, v := v.getLsbD 6, d := v.getLsbD 3, i := v.getLsbD 2, z := v.getLsbD 1, c := v.getLsbD 0 } }
        (addrOf hi lo) [rd s.pc b0, rd (s.pc + 1) b1, rd (stackAddr s.regs.s) b2, rd a1 v, rd a2 lo, rd a3 hi] ∧
      (Backed s a1 → v = readByte s.mem a1) ∧ (Backed s a2 → lo = readByte s.mem a2) ∧
      (Backed s a3 → hi = readByte s.mem a3) ∧ SameOutside [] s t

/-- From every state RTS completes: PC is the word that the reads at StackAddr(S+1) and StackAddr(S+2) get, plus 1 modulo 2^16, S
rises by 2, A, X, Y, P and memory are unchanged, and the six reads (the last at the pulled word) are those of the table; where
memory stands at these addresses the two bytes are what it holds. (R73) -/
def Obligations.RtsReturnsPastThePulledWord : Prop :=
  ∀ s : State,
    let a1 := stackAddr (s.regs.s + 1)
    let a2 := stackAddr (s.regs.s + 2)
    ∃ t b0 b1 b2 lo hi b5, exec .rts s = .next t ∧
      Ended s t { s.regs with s := s.regs.s + 2 } (addrOf hi lo + 1)
        [rd s.pc b0, rd (s.pc + 1) b1, rd (stackAddr s.regs.s) b2, rd a1 lo, rd a2 hi, rd (addrOf hi lo) b5] ∧
      (Backed s a1 → lo = readByte s.mem a1) ∧ (Backed s a2 → hi = readByte s.mem a2) ∧ SameOutside [] s t

/-- From every state PHA completes: A is written at StackAddr(S), and plain memory there holds it after; S drops by 1, PC advances by
1, A, X, Y, P and every other byte of memory are unchanged, and the accesses are those of the table. (R74) -/
def Obligations.PhaPushesTheAccumulator : Prop :=
  ∀ s : State,
    let a0 := stackAddr s.regs.s
    ∃ t b0 b1, exec .pha s = .next t ∧
      Ended s t { s.regs with s := s.regs.s - 1 } (s.pc + 1) [rd s.pc b0, rd (s.pc + 1) b1, wr a0 s.regs.a] ∧
      readByte t.mem a0 = stored s a0 s.regs.a ∧ SameOutside [a0] s t

/-- From every state PHP completes: the byte 128 N + 64 V + $30 + 8 D + 4 I + 2 Z + C is written at StackAddr(S), and plain memory
there holds it after; S drops by 1, PC advances by 1, A, X, Y, P and every other byte of memory are unchanged, and the accesses
are those of the table. (R75) -/
def Obligations.PhpPushesTheFlags : Prop :=
  ∀ s : State,
    let a0 := stackAddr s.regs.s
    let p := s.regs.p
    let image : Byte := BitVec.ofNat 8 (128 * p.n.toNat + 64 * p.v.toNat + 0x30 + 8 * p.d.toNat + 4 * p.i.toNat +
      2 * p.z.toNat + p.c.toNat)
    ∃ t b0 b1, exec .php s = .next t ∧
      Ended s t { s.regs with s := s.regs.s - 1 } (s.pc + 1) [rd s.pc b0, rd (s.pc + 1) b1, wr a0 image] ∧
      readByte t.mem a0 = stored s a0 image ∧ SameOutside [a0] s t

/-- From every state PLA completes: A is the byte that the read at StackAddr(S+1) gets (what memory holds there, where memory stands
there), N is its bit 7, Z says it is zero, S rises by 1, PC advances by 1, X, Y, V, D, I, C and memory are unchanged, and the four
reads are those of the table. (R76) -/
def Obligations.PlaPullsTheAccumulator : Prop :=
  ∀ s : State,
    let a1 := stackAddr (s.regs.s + 1)
    ∃ t b0 b1 b2 v, exec .pla s = .next t ∧
      Ended s t
        { s.regs with
          a := v
          s := s.regs.s + 1
          p := { s.regs.p with n := v.getLsbD 7, z := decide (v = 0x00) } }
        (s.pc + 1) [rd s.pc b0, rd (s.pc + 1) b1, rd (stackAddr s.regs.s) b2, rd a1 v] ∧
      (Backed s a1 → v = readByte s.mem a1) ∧ SameOutside [] s t

/-- From every state PLP completes: N, V, D, I, Z, C are bits 7, 6, 3, 2, 1, 0 of the byte that the read at StackAddr(S+1) gets (what
memory holds there, where memory stands there), S rises by 1, PC advances by 1, A, X, Y and memory are unchanged, and the four
reads are those of the table. (R77) -/
def Obligations.PlpPullsTheFlags : Prop :=
  ∀ s : State,
    let a1 := stackAddr (s.regs.s + 1)
    ∃ t b0 b1 b2 v, exec .plp s = .next t ∧
      Ended s t
        { s.regs with
          s := s.regs.s + 1
          p := { n := v.getLsbD 7, v := v.getLsbD 6, d := v.getLsbD 3, i := v.getLsbD 2, z := v.getLsbD 1, c := v.getLsbD 0 } }
        (s.pc + 1) [rd s.pc b0, rd (s.pc + 1) b1, rd (stackAddr s.regs.s) b2, rd a1 v] ∧
      (Backed s a1 → v = readByte s.mem a1) ∧ SameOutside [] s t

/-- From every state JSR completes: PCH and PCL of PC+2 are written at StackAddr(S) and StackAddr(S-1), and plain memory there holds
them after; S drops by 2, PC has the operand's low byte and as high byte what the read at PC+2 AFTER the pushes gets (what memory
holds then, where memory stands there), A, X, Y, P and every other byte are unchanged, the accesses are those of the table; where
the pushes miss PC+2 and memory holds the operand's high byte there, PC is the operand. A step at the byte $20 takes the low byte
of PC from the read at PC+1. (R78) -/
def Obligations.JsrPushesAndJumpsWithTheLateHighByte : Prop :=
  (∀ (a : Addr) (s : State),
    let ret := s.pc + 2
    let a0 := stackAddr s.regs.s
    let a1 := stackAddr (s.regs.s - 1)
    ∃ t b0 b1 b2 hi, exec (.jsr a) s = .next t ∧
      Ended s t { s.regs with s := s.regs.s - 2 } (addrOf hi (lowByte a))
        [rd s.pc b0, rd (s.pc + 1) b1, rd a0 b2, wr a0 (highByte ret), wr a1 (lowByte ret), rd ret hi] ∧
      (Backed s ret → hi = readByte t.mem ret) ∧
      readByte t.mem a0 = stored s a0 (highByte ret) ∧ readByte t.mem a1 = stored s a1 (lowByte ret) ∧
      SameOutside [a0, a1] s t ∧
      (Backed s ret → ret ∉ [a0, a1] → readByte s.mem ret = highByte a → t.pc = a)) ∧
  (∀ s : State, s.busRead s.pc = 0x20 → ∃ t, step s = .next t ∧
    lowByte t.pc = (s.afterRead s.pc).busRead (s.pc + 1) ∧ t.regs = { s.regs with s := s.regs.s - 2 })

/-- From every state whose stack page is plain memory (the condition of the rule), each second instruction executed directly after the
first: PHA then PLA restores A and S and sets N and Z from A; PHP then PLP restores the flags and S; PHP then PLA leaves A =
PushByte(P, 1); PHA then PLP takes the flags from A; JSR then RTS continues at PC+3 with S restored; BRK then RTI continues at
PC+2 with S and all six flags as before. (40_stack_instructions.md R80 (a) to (e)) -/
def Obligations.PushAndPullPairs : Prop :=
  ∀ (a : Addr) (s : State), (∀ b : Byte, Plain s (stackAddr b)) →
    (∃ t u, exec .pha s = .next t ∧ exec .pla t = .next u ∧
      u.regs = { s.regs with p := { s.regs.p with n := s.regs.a.getLsbD 7, z := decide (s.regs.a = 0x00) } }) ∧
    (∃ t u, exec .php s = .next t ∧ exec .plp t = .next u ∧ u.regs = s.regs) ∧
    (∃ t u, exec .php s = .next t ∧ exec .pla t = .next u ∧ u.regs.a = pushByte s.regs.p true ∧
      u.regs.a.getLsbD 5 = true ∧ u.regs.a.getLsbD 4 = true) ∧
    (∃ t u, exec .pha s = .next t ∧ exec .plp t = .next u ∧ u.regs.p = pullP s.regs.a) ∧
    (∃ t u, exec (.jsr a) s = .next t ∧ exec .rts t = .next u ∧ u.pc = s.pc + 3 ∧ u.regs = s.regs ∧
      t.trace.getLast?.map (fun e => (e.addr, e.kind)) = some (s.pc + 2, .read)) ∧
    (∃ t u, exec .brk s = .next t ∧ exec .rti t = .next u ∧ u.pc = s.pc + 2 ∧ u.regs = s.regs)

/-- For the eight stack instructions in every state: every byte of memory outside $0100-$01FF reads as before; every write access they
add to the trace has high address byte $01; RTI, RTS, PLA and PLP add no write access and leave every byte as before.
(40_stack_instructions.md R82, 00_scope.md R7) -/
def Obligations.StackFamilyWritesStayInPageOne : Prop :=
  ∀ (i : Instr) (s t : State) (es : List BusEvent), exec i s = .next t → t.trace = s.trace ++ es →
    i.mnemonic ∈ [Mnemonic.brk, .rti, .rts, .pha, .php, .pla, .plp, .jsr] →
    (∀ e ∈ es, e.kind = .write → highByte e.addr = 0x01) ∧
    (∀ b : Addr, highByte b ≠ 0x01 → readByte t.mem b = readByte s.mem b) ∧
    (i.mnemonic ∈ [Mnemonic.rti, .rts, .pla, .plp] → (∀ e ∈ es, e.kind = .read) ∧ SameOutside [] s t)

/-- For every state, each of ASL $0A, CLC $18, ROL $2A, SEC $38, LSR $4A, CLI $58, ROR $6A, SEI $78, DEY $88, TXA $8A, TYA $98, TXS
$9A, TAY $A8, TAX $AA, CLV $B8, TSX $BA, INY $C8, DEX $CA, CLD $D8, INX $E8, NOP $EA, SED $F8 completes: PC advances by 1, the
registers are ImpliedOp of the mnemonic and the old registers (a parameter of the model), every byte of memory reads as before,
and the accesses are those of the table, in its order. (R90) -/
def Obligations.ImpliedRunsImpliedOp : Prop :=
  ∀ (s : State),
    let gives : Instr → Mnemonic → Prop := fun i m =>
      ∃ t b0 b1, exec i s = .next t ∧
        Ended s t (impliedOp m s.regs) (s.pc + 1)
          [rd s.pc b0, rd (s.pc + 1) b1] ∧
        SameOutside [] s t
    gives .aslAcc .asl ∧ gives .clc .clc ∧ gives .rolAcc .rol ∧ gives .sec .sec ∧ gives .lsrAcc .lsr ∧
    gives .cli .cli ∧ gives .rorAcc .ror ∧ gives .sei .sei ∧ gives .dey .dey ∧ gives .txa .txa ∧ gives .tya .tya
    ∧ gives .txs .txs ∧ gives .tay .tay ∧ gives .tax .tax ∧ gives .clv .clv ∧ gives .tsx .tsx ∧ gives .iny .iny
    ∧ gives .dex .dex ∧ gives .cld .cld ∧ gives .inx .inx ∧ gives .nop .nop ∧ gives .sed .sed

/-- For every state and operand byte, each of ORA $09, AND $29, EOR $49, ADC $69, LDY $A0, LDX $A2, LDA $A9, CPY $C0, CMP $C9, CPX
$E0, SBC $E9 completes: PC advances by 2, the registers are ImmOp of the mnemonic, the old registers and the byte, every byte of
memory reads as before, and the accesses are those of the table, in its order. (R91) -/
def Obligations.ImmediateRunsImmOp : Prop :=
  ∀ (v : Byte) (s : State),
    let gives : Instr → Mnemonic → Prop := fun i m =>
      ∃ t b0 b1, exec i s = .next t ∧
        Ended s t (immOp m s.regs v) (s.pc + 2)
          [rd s.pc b0, rd (s.pc + 1) b1] ∧
        SameOutside [] s t
    gives (.oraImm v) .ora ∧ gives (.andImm v) .and ∧ gives (.eorImm v) .eor ∧ gives (.adcImm v) .adc ∧
    gives (.ldyImm v) .ldy ∧ gives (.ldxImm v) .ldx ∧ gives (.ldaImm v) .lda ∧ gives (.cpyImm v) .cpy ∧
    gives (.cmpImm v) .cmp ∧ gives (.cpxImm v) .cpx ∧ gives (.sbcImm v) .sbc

/-- From every state and for every operand JMP completes: PC is the operand, the registers and every byte of memory are unchanged,
three reads at PC, PC+1, PC+2. A step whose bus read at PC gives $4C loads PC with the little-endian word that the reads at PC+1
and PC+2 get. (R95) -/
def Obligations.JmpAbsoluteLoadsPc : Prop :=
  (∀ (a : Addr) (s : State), ∃ t b0 b1 b2, exec (.jmpAbs a) s = .next t ∧
    Ended s t s.regs a [rd s.pc b0, rd (s.pc + 1) b1, rd (s.pc + 2) b2] ∧ SameOutside [] s t) ∧
  (∀ s : State, s.busRead s.pc = 0x4C → ∃ t b0 lo hi, step s = .next t ∧
    Ended s t s.regs (addrOf hi lo) [rd s.pc b0, rd (s.pc + 1) lo, rd (s.pc + 2) hi] ∧ SameOutside [] s t)

/-- For every state and operand, each of NOP $0C, ORA $0D, BIT $2C, AND $2D, EOR $4D, ADC $6D, LDY $AC, LDA $AD, LDX $AE, LAX $AF, CPY
$CC, CMP $CD, CPX $EC, SBC $ED completes: the registers are ReadOp of the mnemonic, the old registers and the byte that the read
at the effective address gets (a parameter of the model; NOP changes none), every byte of memory reads as before, PC advances by
3, and the accesses are those of the table, in its order. (R96) -/
def Obligations.AbsoluteReadRunsReadOp : Prop :=
  ∀ (a : Addr) (s : State),
    let gives : Instr → Mnemonic → Prop := fun i m =>
      ∃ t b0 b1 b2 v,
        exec i s = .next t ∧
        Ended s t (readOp m s.regs v) (s.pc + 3)
          [rd s.pc b0, rd (s.pc + 1) b1, rd (s.pc + 2) b2, rd a v] ∧
        SameOutside [] s t
    gives (.nopAbs a) .nop ∧ gives (.oraAbs a) .ora ∧ gives (.bitAbs a) .bit ∧ gives (.andAbs a) .and ∧
    gives (.eorAbs a) .eor ∧ gives (.adcAbs a) .adc ∧ gives (.ldyAbs a) .ldy ∧ gives (.ldaAbs a) .lda ∧
    gives (.ldxAbs a) .ldx ∧ gives (.laxAbs a) .lax ∧ gives (.cpyAbs a) .cpy ∧ gives (.cmpAbs a) .cmp ∧
    gives (.cpxAbs a) .cpx ∧ gives (.sbcAbs a) .sbc

/-- For every state and operand, each of ASL $0E, SLO $0F, ROL $2E, RLA $2F, LSR $4E, SRE $4F, ROR $6E, RRA $6F, DEC $CE, DCP $CF, INC
$EE, ISB $EF completes: the byte v that the read at the effective address gets is written back there, then the byte of
RmwOp(mnemonic, registers, v), which plain memory there holds after; the registers are those of RmwOp; every other byte reads as
before, PC advances by 3, and the accesses are those of the table, in its order. (R97) -/
def Obligations.AbsoluteRmwWritesTwice : Prop :=
  ∀ (a : Addr) (s : State),
    let gives : Instr → Mnemonic → Prop := fun i m =>
      ∃ t b0 b1 b2 v,
        exec i s = .next t ∧
        Ended s t (rmwOp m s.regs v).1 (s.pc + 3)
          [rd s.pc b0, rd (s.pc + 1) b1, rd (s.pc + 2) b2, rd a v,
            wr a v, wr a (rmwOp m s.regs v).2] ∧
        readByte t.mem a = stored s a (rmwOp m s.regs v).2 ∧ SameOutside [a] s t
    gives (.aslAbs a) .asl ∧ gives (.sloAbs a) .slo ∧ gives (.rolAbs a) .rol ∧ gives (.rlaAbs a) .rla ∧
    gives (.lsrAbs a) .lsr ∧ gives (.sreAbs a) .sre ∧ gives (.rorAbs a) .ror ∧ gives (.rraAbs a) .rra ∧
    gives (.decAbs a) .dec ∧ gives (.dcpAbs a) .dcp ∧ gives (.incAbs a) .inc ∧ gives (.isbAbs a) .isb

/-- For every state and operand, each of STY $8C, STA $8D, STX $8E, SAX $8F completes: the byte written at the effective address,
which plain memory there holds after, is A, X or Y for STA, STX, STY and StoreVal(SAX) for SAX (a parameter of the model), the
registers are unchanged, every other byte reads as before, PC advances by 3, and the accesses are those of the table, in its
order. (R98) -/
def Obligations.AbsoluteWriteStores : Prop :=
  ∀ (a : Addr) (s : State),
    let gives : Instr → Byte → Prop := fun i val =>
      ∃ t b0 b1 b2,
        exec i s = .next t ∧
        Ended s t s.regs (s.pc + 3)
          [rd s.pc b0, rd (s.pc + 1) b1, rd (s.pc + 2) b2,
            wr a val] ∧
        readByte t.mem a = stored s a val ∧ SameOutside [a] s t
    gives (.styAbs a) s.regs.y ∧ gives (.staAbs a) s.regs.a ∧ gives (.stxAbs a) s.regs.x ∧
    gives (.saxAbs a) (storeVal .sax s.regs none)

/-- For every state and operand, each of NOP $04, ORA $05, BIT $24, AND $25, NOP $44, EOR $45, NOP $64, ADC $65, LDY $A4, LDA $A5, LDX
$A6, LAX $A7, CPY $C4, CMP $C5, CPX $E4, SBC $E5 completes: the registers are ReadOp of the mnemonic, the old registers and the
byte that the read at the effective address gets (a parameter of the model; NOP changes none), every byte of memory reads as
before, PC advances by 2, and the accesses are those of the table, in its order. (R100) -/
def Obligations.ZeroPageReadRunsReadOp : Prop :=
  ∀ (zp : Byte) (s : State),
    let gives : Instr → Mnemonic → Prop := fun i m =>
      ∃ t b0 b1 v,
        exec i s = .next t ∧
        Ended s t (readOp m s.regs v) (s.pc + 2)
          [rd s.pc b0, rd (s.pc + 1) b1, rd (addrOf 0x00 zp) v] ∧
        SameOutside [] s t
    gives (.nopZp04 zp) .nop ∧ gives (.oraZp zp) .ora ∧ gives (.bitZp zp) .bit ∧ gives (.andZp zp) .and ∧
    gives (.nopZp44 zp) .nop ∧ gives (.eorZp zp) .eor ∧ gives (.nopZp64 zp) .nop ∧ gives (.adcZp zp) .adc ∧
    gives (.ldyZp zp) .ldy ∧ gives (.ldaZp zp) .lda ∧ gives (.ldxZp zp) .ldx ∧ gives (.laxZp zp) .lax ∧
    gives (.cpyZp zp) .cpy ∧ gives (.cmpZp zp) .cmp ∧ gives (.cpxZp zp) .cpx ∧ gives (.sbcZp zp) .sbc

/-- For every state and operand, each of ASL $06, SLO $07, ROL $26, RLA $27, LSR $46, SRE $47, ROR $66, RRA $67, DEC $C6, DCP $C7, INC
$E6, ISB $E7 completes: the byte v that the read at the effective address gets is written back there, then the byte of
RmwOp(mnemonic, registers, v), which plain memory there holds after; the registers are those of RmwOp; every other byte reads as
before, PC advances by 2, and the accesses are those of the table, in its order. (R101) -/
def Obligations.ZeroPageRmwWritesTwice : Prop :=
  ∀ (zp : Byte) (s : State),
    let gives : Instr → Mnemonic → Prop := fun i m =>
      ∃ t b0 b1 v,
        exec i s = .next t ∧
        Ended s t (rmwOp m s.regs v).1 (s.pc + 2)
          [rd s.pc b0, rd (s.pc + 1) b1, rd (addrOf 0x00 zp) v,
            wr (addrOf 0x00 zp) v, wr (addrOf 0x00 zp) (rmwOp m s.regs v).2] ∧
        readByte t.mem (addrOf 0x00 zp) = stored s (addrOf 0x00 zp) (rmwOp m s.regs v).2 ∧ SameOutside [(addrOf 0x00 zp)] s t
    gives (.aslZp zp) .asl ∧ gives (.sloZp zp) .slo ∧ gives (.rolZp zp) .rol ∧ gives (.rlaZp zp) .rla ∧
    gives (.lsrZp zp) .lsr ∧ gives (.sreZp zp) .sre ∧ gives (.rorZp zp) .ror ∧ gives (.rraZp zp) .rra ∧
    gives (.decZp zp) .dec ∧ gives (.dcpZp zp) .dcp ∧ gives (.incZp zp) .inc ∧ gives (.isbZp zp) .isb

/-- For every state and operand, each of STY $84, STA $85, STX $86, SAX $87 completes: the byte written at the effective address,
which plain memory there holds after, is A, X or Y for STA, STX, STY and StoreVal(SAX) for SAX (a parameter of the model), the
registers are unchanged, every other byte reads as before, PC advances by 2, and the accesses are those of the table, in its
order. (R102) -/
def Obligations.ZeroPageWriteStores : Prop :=
  ∀ (zp : Byte) (s : State),
    let gives : Instr → Byte → Prop := fun i val =>
      ∃ t b0 b1,
        exec i s = .next t ∧
        Ended s t s.regs (s.pc + 2)
          [rd s.pc b0, rd (s.pc + 1) b1,
            wr (addrOf 0x00 zp) val] ∧
        readByte t.mem (addrOf 0x00 zp) = stored s (addrOf 0x00 zp) val ∧ SameOutside [(addrOf 0x00 zp)] s t
    gives (.styZp zp) s.regs.y ∧ gives (.staZp zp) s.regs.a ∧ gives (.stxZp zp) s.regs.x ∧
    gives (.saxZp zp) (storeVal .sax s.regs none)

/-- For every state and operand, each of NOP $14, ORA $15, NOP $34, AND $35, NOP $54, EOR $55, NOP $74, ADC $75, LDY $B4, LDA $B5, LDX
$B6, LAX $B7, NOP $D4, CMP $D5, NOP $F4, SBC $F5 completes at the address zp plus the index register of its row, wrapped inside
page zero: the registers are ReadOp of the mnemonic, the old registers and the byte that the read at the effective address gets (a
parameter of the model; NOP changes none), every byte of memory reads as before, PC advances by 2, and the accesses are those of
the table, in its order. (R103) -/
def Obligations.ZeroPageIndexedReadRunsReadOp : Prop :=
  ∀ (zp : Byte) (s : State),
    let gives : Instr → Mnemonic → Byte → Prop := fun i m ix =>
      let ea := addrOf 0x00 (zp + ix)
      ∃ t b0 b1 b2 v,
        exec i s = .next t ∧
        Ended s t (readOp m s.regs v) (s.pc + 2)
          [rd s.pc b0, rd (s.pc + 1) b1, rd (addrOf 0x00 zp) b2, rd ea v] ∧
        SameOutside [] s t
    gives (.nopZpX14 zp) .nop s.regs.x ∧ gives (.oraZpX zp) .ora s.regs.x ∧ gives (.nopZpX34 zp) .nop s.regs.x ∧
    gives (.andZpX zp) .and s.regs.x ∧ gives (.nopZpX54 zp) .nop s.regs.x ∧ gives (.eorZpX zp) .eor s.regs.x ∧
    gives (.nopZpX74 zp) .nop s.regs.x ∧ gives (.adcZpX zp) .adc s.regs.x ∧ gives (.ldyZpX zp) .ldy s.regs.x ∧
    gives (.ldaZpX zp) .lda s.regs.x ∧ gives (.ldxZpY zp) .ldx s.regs.y ∧ gives (.laxZpY zp) .lax s.regs.y ∧
    gives (.nopZpXD4 zp) .nop s.regs.x ∧ gives (.cmpZpX zp) .cmp s.regs.x ∧ gives (.nopZpXF4 zp) .nop s.regs.x ∧
    gives (.sbcZpX zp) .sbc s.regs.x

/-- For every state and operand, each of ASL $16, SLO $17, ROL $36, RLA $37, LSR $56, SRE $57, ROR $76, RRA $77, DEC $D6, DCP $D7, INC
$F6, ISB $F7 completes at the address zp plus the index register of its row, wrapped inside page zero: the byte v that the read at
the effective address gets is written back there, then the byte of RmwOp(mnemonic, registers, v), which plain memory there holds
after; the registers are those of RmwOp; every other byte reads as before, PC advances by 2, and the accesses are those of the
table, in its order. (R104) -/
def Obligations.ZeroPageIndexedRmwWritesTwice : Prop :=
  ∀ (zp : Byte) (s : State),
    let gives : Instr → Mnemonic → Byte → Prop := fun i m ix =>
      let ea := addrOf 0x00 (zp + ix)
      ∃ t b0 b1 b2 v,
        exec i s = .next t ∧
        Ended s t (rmwOp m s.regs v).1 (s.pc + 2)
          [rd s.pc b0, rd (s.pc + 1) b1, rd (addrOf 0x00 zp) b2, rd ea v,
            wr ea v, wr ea (rmwOp m s.regs v).2] ∧
        readByte t.mem ea = stored s ea (rmwOp m s.regs v).2 ∧ SameOutside [ea] s t
    gives (.aslZpX zp) .asl s.regs.x ∧ gives (.sloZpX zp) .slo s.regs.x ∧ gives (.rolZpX zp) .rol s.regs.x ∧
    gives (.rlaZpX zp) .rla s.regs.x ∧ gives (.lsrZpX zp) .lsr s.regs.x ∧ gives (.sreZpX zp) .sre s.regs.x ∧
    gives (.rorZpX zp) .ror s.regs.x ∧ gives (.rraZpX zp) .rra s.regs.x ∧ gives (.decZpX zp) .dec s.regs.x ∧
    gives (.dcpZpX zp) .dcp s.regs.x ∧ gives (.incZpX zp) .inc s.regs.x ∧ gives (.isbZpX zp) .isb s.regs.x

/-- For every state and operand, each of STY $94, STA $95, STX $96, SAX $97 completes at the address zp plus the index register of its
row, wrapped inside page zero: the byte written at the effective address, which plain memory there holds after, is A, X or Y for
STA, STX, STY and StoreVal(SAX) for SAX (a parameter of the model), the registers are unchanged, every other byte reads as before,
PC advances by 2, and the accesses are those of the table, in its order. (R105) -/
def Obligations.ZeroPageIndexedWriteStores : Prop :=
  ∀ (zp : Byte) (s : State),
    let gives : Instr → Byte → Byte → Prop := fun i val ix =>
      let ea := addrOf 0x00 (zp + ix)
      ∃ t b0 b1 b2,
        exec i s = .next t ∧
        Ended s t s.regs (s.pc + 2)
          [rd s.pc b0, rd (s.pc + 1) b1, rd (addrOf 0x00 zp) b2,
            wr ea val] ∧
        readByte t.mem ea = stored s ea val ∧ SameOutside [ea] s t
    gives (.styZpX zp) s.regs.y s.regs.x ∧ gives (.staZpX zp) s.regs.a s.regs.x ∧
    gives (.stxZpY zp) s.regs.x s.regs.y ∧ gives (.saxZpY zp) (storeVal .sax s.regs none) s.regs.y

/-- For every state and operand, each of ORA $19, NOP $1C, ORA $1D, AND $39, NOP $3C, AND $3D, EOR $59, NOP $5C, EOR $5D, ADC $79, NOP
$7C, ADC $7D, LDA $B9, LDY $BC, LDA $BD, LDX $BE, LAX $BF, CMP $D9, NOP $DC, CMP $DD, SBC $F9, NOP $FC, SBC $FD completes at the
16-bit sum of the operand and the index register of its row, after a read at the address whose high byte is not yet fixed: the
registers are ReadOp of the mnemonic, the old registers and the byte that the read at the effective address gets (a parameter of
the model; NOP changes none), every byte of memory reads as before, PC advances by 3, and the accesses are those of the table, in
its order. LAE $BB and SHS $9B, also in the list of the source, are refused in every state, as R166 says. (R111, R110) -/
def Obligations.AbsoluteIndexedReadRunsReadOp : Prop :=
  ∀ (a : Addr) (s : State),
    let gives : Instr → Mnemonic → Byte → Prop := fun i m ix =>
      let early := addrOf (highByte a) (lowByte a + ix)
      let ea := a + zext16 ix
      ∃ t b0 b1 b2 w v,
        exec i s = .next t ∧
        Ended s t (readOp m s.regs v) (s.pc + 3)
          ([rd s.pc b0, rd (s.pc + 1) b1, rd (s.pc + 2) b2] ++
            (if 256 ≤ (lowByte a).toNat + ix.toNat then [rd early w] else []) ++ [rd ea v]) ∧
        SameOutside [] s t
    gives (.oraAbsY a) .ora s.regs.y ∧ gives (.nopAbsX1C a) .nop s.regs.x ∧ gives (.oraAbsX a) .ora s.regs.x ∧
    gives (.andAbsY a) .and s.regs.y ∧ gives (.nopAbsX3C a) .nop s.regs.x ∧ gives (.andAbsX a) .and s.regs.x ∧
    gives (.eorAbsY a) .eor s.regs.y ∧ gives (.nopAbsX5C a) .nop s.regs.x ∧ gives (.eorAbsX a) .eor s.regs.x ∧
    gives (.adcAbsY a) .adc s.regs.y ∧ gives (.nopAbsX7C a) .nop s.regs.x ∧ gives (.adcAbsX a) .adc s.regs.x ∧
    gives (.ldaAbsY a) .lda s.regs.y ∧ gives (.ldyAbsX a) .ldy s.regs.x ∧ gives (.ldaAbsX a) .lda s.regs.x ∧
    gives (.ldxAbsY a) .ldx s.regs.y ∧ gives (.laxAbsY a) .lax s.regs.y ∧ gives (.cmpAbsY a) .cmp s.regs.y ∧
    gives (.nopAbsXDC a) .nop s.regs.x ∧ gives (.cmpAbsX a) .cmp s.regs.x ∧ gives (.sbcAbsY a) .sbc s.regs.y ∧
    gives (.nopAbsXFC a) .nop s.regs.x ∧ gives (.sbcAbsX a) .sbc s.regs.x ∧
    exec (.shsAbsY a) s = .refused (.unstableOpcode 0x9B) ∧
    exec (.laeAbsY a) s = .refused (.unstableOpcode 0xBB)

/-- For every state and operand, each of SLO $1B, ASL $1E, SLO $1F, RLA $3B, ROL $3E, RLA $3F, SRE $5B, LSR $5E, SRE $5F, RRA $7B, ROR
$7E, RRA $7F, DCP $DB, DEC $DE, DCP $DF, ISB $FB, INC $FE, ISB $FF completes at the 16-bit sum of the operand and the index
register of its row, after a read at the address whose high byte is not yet fixed: the byte v that the read at the effective
address gets is written back there, then the byte of RmwOp(mnemonic, registers, v), which plain memory there holds after; the
registers are those of RmwOp; every other byte reads as before, PC advances by 3, and the accesses are those of the table, in its
order. (R112) -/
def Obligations.AbsoluteIndexedRmwWritesTwice : Prop :=
  ∀ (a : Addr) (s : State),
    let gives : Instr → Mnemonic → Byte → Prop := fun i m ix =>
      let early := addrOf (highByte a) (lowByte a + ix)
      let ea := a + zext16 ix
      ∃ t b0 b1 b2 w v,
        exec i s = .next t ∧
        Ended s t (rmwOp m s.regs v).1 (s.pc + 3)
          [rd s.pc b0, rd (s.pc + 1) b1, rd (s.pc + 2) b2, rd early w, rd ea v,
            wr ea v, wr ea (rmwOp m s.regs v).2] ∧
        readByte t.mem ea = stored s ea (rmwOp m s.regs v).2 ∧ SameOutside [ea] s t
    gives (.sloAbsY a) .slo s.regs.y ∧ gives (.aslAbsX a) .asl s.regs.x ∧ gives (.sloAbsX a) .slo s.regs.x ∧
    gives (.rlaAbsY a) .rla s.regs.y ∧ gives (.rolAbsX a) .rol s.regs.x ∧ gives (.rlaAbsX a) .rla s.regs.x ∧
    gives (.sreAbsY a) .sre s.regs.y ∧ gives (.lsrAbsX a) .lsr s.regs.x ∧ gives (.sreAbsX a) .sre s.regs.x ∧
    gives (.rraAbsY a) .rra s.regs.y ∧ gives (.rorAbsX a) .ror s.regs.x ∧ gives (.rraAbsX a) .rra s.regs.x ∧
    gives (.dcpAbsY a) .dcp s.regs.y ∧ gives (.decAbsX a) .dec s.regs.x ∧ gives (.dcpAbsX a) .dcp s.regs.x ∧
    gives (.isbAbsY a) .isb s.regs.y ∧ gives (.incAbsX a) .inc s.regs.x ∧ gives (.isbAbsX a) .isb s.regs.x

/-- For every state and operand, each of STA $99, STA $9D completes at the 16-bit sum of the operand and the index register of its
row, after a read at the address whose high byte is not yet fixed: the byte written at the effective address, which plain memory
there holds after, is A, the registers are unchanged, every other byte reads as before, PC advances by 3, and the accesses are
those of the table, in its order. SHA $9F, SHX $9E and SHY $9C, also in the list of the source, are refused in every state, as
R166 says. (R113) -/
def Obligations.AbsoluteIndexedWriteStores : Prop :=
  ∀ (a : Addr) (s : State),
    let gives : Instr → Byte → Byte → Prop := fun i val ix =>
      let early := addrOf (highByte a) (lowByte a + ix)
      let ea := a + zext16 ix
      ∃ t b0 b1 b2 w,
        exec i s = .next t ∧
        Ended s t s.regs (s.pc + 3)
          [rd s.pc b0, rd (s.pc + 1) b1, rd (s.pc + 2) b2, rd early w,
            wr ea val] ∧
        readByte t.mem ea = stored s ea val ∧ SameOutside [ea] s t
    gives (.staAbsY a) s.regs.a s.regs.y ∧ gives (.staAbsX a) s.regs.a s.regs.x ∧
    exec (.shyAbsX a) s = .refused (.unstableOpcode 0x9C) ∧
    exec (.shxAbsY a) s = .refused (.unstableOpcode 0x9E) ∧
    exec (.shaAbsY a) s = .refused (.unstableOpcode 0x9F)

/-- For every state and operand, each of ORA $01, AND $21, EOR $41, ADC $61, LDA $A1, LAX $A3, CMP $C1, SBC $E1 completes at the word
found in page zero through the pointer plus X, both pointer bytes wrapped inside page zero: the registers are ReadOp of the
mnemonic, the old registers and the byte that the read at the effective address gets (a parameter of the model; NOP changes none),
every byte of memory reads as before, PC advances by 2, and the accesses are those of the table, in its order. (R121, R120) -/
def Obligations.IndexedIndirectReadRunsReadOp : Prop :=
  ∀ (p : Byte) (s : State),
    let gives : Instr → Mnemonic → Prop := fun i m =>
      let q := addrOf 0x00 (p + s.regs.x)
      let q1 := addrOf 0x00 (p + s.regs.x + 1)
      ∃ t b0 b1 b2 lo hi v,
        let ea := addrOf hi lo
        exec i s = .next t ∧
        Ended s t (readOp m s.regs v) (s.pc + 2)
          [rd s.pc b0, rd (s.pc + 1) b1, rd (addrOf 0x00 p) b2, rd q lo, rd q1 hi, rd ea v] ∧
        SameOutside [] s t
    gives (.oraIndX p) .ora ∧ gives (.andIndX p) .and ∧ gives (.eorIndX p) .eor ∧ gives (.adcIndX p) .adc ∧
    gives (.ldaIndX p) .lda ∧ gives (.laxIndX p) .lax ∧ gives (.cmpIndX p) .cmp ∧ gives (.sbcIndX p) .sbc

/-- For every state and operand, each of SLO $03, RLA $23, SRE $43, RRA $63, DCP $C3, ISB $E3 completes at the word found in page zero
through the pointer plus X, both pointer bytes wrapped inside page zero: the byte v that the read at the effective address gets is
written back there, then the byte of RmwOp(mnemonic, registers, v), which plain memory there holds after; the registers are those
of RmwOp; every other byte reads as before, PC advances by 2, and the accesses are those of the table, in its order. (R122, R120) -/
def Obligations.IndexedIndirectRmwWritesTwice : Prop :=
  ∀ (p : Byte) (s : State),
    let gives : Instr → Mnemonic → Prop := fun i m =>
      let q := addrOf 0x00 (p + s.regs.x)
      let q1 := addrOf 0x00 (p + s.regs.x + 1)
      ∃ t b0 b1 b2 lo hi v,
        let ea := addrOf hi lo
        exec i s = .next t ∧
        Ended s t (rmwOp m s.regs v).1 (s.pc + 2)
          [rd s.pc b0, rd (s.pc + 1) b1, rd (addrOf 0x00 p) b2, rd q lo, rd q1 hi, rd ea v,
            wr ea v, wr ea (rmwOp m s.regs v).2] ∧
        readByte t.mem ea = stored s ea (rmwOp m s.regs v).2 ∧ SameOutside [ea] s t
    gives (.sloIndX p) .slo ∧ gives (.rlaIndX p) .rla ∧ gives (.sreIndX p) .sre ∧ gives (.rraIndX p) .rra ∧
    gives (.dcpIndX p) .dcp ∧ gives (.isbIndX p) .isb

/-- For every state and operand, each of STA $81, SAX $83 completes at the word found in page zero through the pointer plus X, both
pointer bytes wrapped inside page zero: the byte written at the effective address, which plain memory there holds after, is A for
STA and StoreVal(SAX) for SAX (a parameter of the model), the registers are unchanged, every other byte reads as before, PC
advances by 2, and the accesses are those of the table, in its order. (R123, R120) -/
def Obligations.IndexedIndirectWriteStores : Prop :=
  ∀ (p : Byte) (s : State),
    let gives : Instr → Byte → Prop := fun i val =>
      let q := addrOf 0x00 (p + s.regs.x)
      let q1 := addrOf 0x00 (p + s.regs.x + 1)
      ∃ t b0 b1 b2 lo hi,
        let ea := addrOf hi lo
        exec i s = .next t ∧
        Ended s t s.regs (s.pc + 2)
          [rd s.pc b0, rd (s.pc + 1) b1, rd (addrOf 0x00 p) b2, rd q lo, rd q1 hi,
            wr ea val] ∧
        readByte t.mem ea = stored s ea val ∧ SameOutside [ea] s t
    gives (.staIndX p) s.regs.a ∧ gives (.saxIndX p) (storeVal .sax s.regs none)

/-- For every state and operand, each of ORA $11, AND $31, EOR $51, ADC $71, LDA $B1, LAX $B3, CMP $D1, SBC $F1 completes at the word
found in page zero through the pointer, plus Y as a 16-bit sum, after a read at the address whose high byte is not yet fixed: the
registers are ReadOp of the mnemonic, the old registers and the byte that the read at the effective address gets (a parameter of
the model; NOP changes none), every byte of memory reads as before, PC advances by 2, and the accesses are those of the table, in
its order. (R125, R124) -/
def Obligations.IndirectIndexedReadRunsReadOp : Prop :=
  ∀ (p : Byte) (s : State),
    let gives : Instr → Mnemonic → Prop := fun i m =>
      let q := addrOf 0x00 p
      let q1 := addrOf 0x00 (p + 1)
      ∃ t b0 b1 lo hi w v,
        let early := addrOf hi (lo + s.regs.y)
        let ea := addrOf hi lo + zext16 s.regs.y
        exec i s = .next t ∧
        Ended s t (readOp m s.regs v) (s.pc + 2)
          ([rd s.pc b0, rd (s.pc + 1) b1, rd q lo, rd q1 hi] ++
            (if 256 ≤ lo.toNat + s.regs.y.toNat then [rd early w] else []) ++ [rd ea v]) ∧
        SameOutside [] s t
    gives (.oraIndY p) .ora ∧ gives (.andIndY p) .and ∧ gives (.eorIndY p) .eor ∧ gives (.adcIndY p) .adc ∧
    gives (.ldaIndY p) .lda ∧ gives (.laxIndY p) .lax ∧ gives (.cmpIndY p) .cmp ∧ gives (.sbcIndY p) .sbc

/-- For every state and operand, each of SLO $13, RLA $33, SRE $53, RRA $73, DCP $D3, ISB $F3 completes at the word found in page zero
through the pointer, plus Y as a 16-bit sum, after a read at the address whose high byte is not yet fixed: the byte v that the
read at the effective address gets is written back there, then the byte of RmwOp(mnemonic, registers, v), which plain memory there
holds after; the registers are those of RmwOp; every other byte reads as before, PC advances by 2, and the accesses are those of
the table, in its order. (R126) -/
def Obligations.IndirectIndexedRmwWritesTwice : Prop :=
  ∀ (p : Byte) (s : State),
    let gives : Instr → Mnemonic → Prop := fun i m =>
      let q := addrOf 0x00 p
      let q1 := addrOf 0x00 (p + 1)
      ∃ t b0 b1 lo hi w v,
        let early := addrOf hi (lo + s.regs.y)
        let ea := addrOf hi lo + zext16 s.regs.y
        exec i s = .next t ∧
        Ended s t (rmwOp m s.regs v).1 (s.pc + 2)
          [rd s.pc b0, rd (s.pc + 1) b1, rd q lo, rd q1 hi, rd early w, rd ea v,
            wr ea v, wr ea (rmwOp m s.regs v).2] ∧
        readByte t.mem ea = stored s ea (rmwOp m s.regs v).2 ∧ SameOutside [ea] s t
    gives (.sloIndY p) .slo ∧ gives (.rlaIndY p) .rla ∧ gives (.sreIndY p) .sre ∧ gives (.rraIndY p) .rra ∧
    gives (.dcpIndY p) .dcp ∧ gives (.isbIndY p) .isb

/-- For every state and operand, STA $91 completes at the word found in page zero through the pointer, plus Y as a 16-bit sum, after a
read at the address whose high byte is not yet fixed: the byte written at the effective address, which plain memory there holds
after, is A, the registers are unchanged, every other byte reads as before, PC advances by 2, and the accesses are those of the
table, in its order. SHA $93, also in the list of the source, is refused in every state, as R166 says. (R127) -/
def Obligations.IndirectIndexedWriteStores : Prop :=
  ∀ (p : Byte) (s : State),
    let gives : Instr → Byte → Prop := fun i val =>
      let q := addrOf 0x00 p
      let q1 := addrOf 0x00 (p + 1)
      ∃ t b0 b1 lo hi w,
        let early := addrOf hi (lo + s.regs.y)
        let ea := addrOf hi lo + zext16 s.regs.y
        exec i s = .next t ∧
        Ended s t s.regs (s.pc + 2)
          [rd s.pc b0, rd (s.pc + 1) b1, rd q lo, rd q1 hi, rd early w,
            wr ea val] ∧
        readByte t.mem ea = stored s ea val ∧ SameOutside [ea] s t
    gives (.staIndY p) s.regs.a ∧
    exec (.shaIndY p) s = .refused (.unstableOpcode 0x93)

/-- From every state and for every pointer a JMP (a) completes: PCL is the byte that the read at a gets, PCH the byte that the read
gets at the address with a's high byte and a's low byte plus 1 modulo 256; where memory stands there, the two bytes are what it
holds; the registers and every byte of memory are unchanged; five reads. (R128) -/
def Obligations.JmpIndirectWrapsInsideThePage : Prop :=
  ∀ (a : Addr) (s : State),
    let a1 := addrOf (highByte a) (lowByte a + 1)
    ∃ t b0 b1 b2 lo hi, exec (.jmpInd a) s = .next t ∧
      Ended s t s.regs (addrOf hi lo) [rd s.pc b0, rd (s.pc + 1) b1, rd (s.pc + 2) b2, rd a lo, rd a1 hi] ∧
      (Backed s a → lo = readByte s.mem a) ∧ (Backed s a1 → hi = readByte s.mem a1) ∧ SameOutside [] s t

/-- From every state and for every displacement, BPL, BMI, BVC, BVS, BCC, BCS, BNE, BEQ complete: taken exactly when N=0, N=1, V=0,
V=1, C=0, C=1, Z=0, Z=1; PC is PC+2, or PC+2 plus the sign-extended displacement modulo 2^16; no register and no byte of memory
changes; two reads when not taken, a third at PC+2 when taken, a fourth at the old PCH with the new PCL when the target is in
another page than PC+2. (R115, R116, R180, R181, R182, R183, R184, R185, R186, R187) -/
def Obligations.BranchesFollowTheirFlag : Prop :=
  ∀ (d : Byte) (s : State),
    let pn := s.pc + 2
    let target := pn + sext16 d
    let gives : Instr → Bool → Prop := fun i take =>
      ∃ t b0 b1 b2 b3, exec i s = .next t ∧
        Ended s t s.regs (if take then target else pn)
          ([rd s.pc b0, rd (s.pc + 1) b1] ++
            if take then
              rd pn b2 :: if highByte target = highByte pn then [] else [rd (addrOf (highByte pn) (lowByte target)) b3]
            else []) ∧
        SameOutside [] s t
    gives (.bpl d) (!s.regs.p.n) ∧ gives (.bmi d) s.regs.p.n ∧ gives (.bvc d) (!s.regs.p.v) ∧
    gives (.bvs d) s.regs.p.v ∧ gives (.bcc d) (!s.regs.p.c) ∧ gives (.bcs d) s.regs.p.c ∧
    gives (.bne d) (!s.regs.p.z) ∧ gives (.beq d) s.regs.p.z

/-- For every state and operand, each of NOP $04, NOP $0C, NOP $14, NOP $1C, NOP $34, NOP $3C, NOP $44, NOP $54, NOP $5C, NOP $64, NOP
$74, NOP $7C, NOP $D4, NOP $DC, NOP $F4, NOP $FC completes with every access of the Read microsequence of its mode (dummy reads
and the data read), A, X, Y, S, P and every byte of memory as before, and PC past its bytes. (R59) -/
def Obligations.NopReadsDiscardTheByte : Prop :=
  ∀ (zp : Byte) (a : Addr) (s : State),
    let zpx := addrOf 0x00 (zp + s.regs.x)
    let early := addrOf (highByte a) (lowByte a + s.regs.x)
    let direct : Byte → Byte → Byte → List BusEvent := fun _ _ v => [rd (addrOf 0x00 zp) v]
    let indexed : Byte → Byte → Byte → List BusEvent := fun b2 _ v => [rd (addrOf 0x00 zp) b2, rd zpx v]
    let far : Byte → Byte → Byte → List BusEvent := fun b2 _ v => [rd (s.pc + 2) b2, rd a v]
    let farIndexed : Byte → Byte → Byte → List BusEvent := fun b2 w v =>
      rd (s.pc + 2) b2 :: ((if 256 ≤ (lowByte a).toNat + s.regs.x.toNat then [rd early w] else []) ++ [rd (a + zext16 s.regs.x) v])
    let gives : Instr → Addr → (Byte → Byte → Byte → List BusEvent) → Prop := fun i pc es =>
      ∃ t b0 b1 b2 w v, exec i s = .next t ∧ Ended s t s.regs pc (rd s.pc b0 :: rd (s.pc + 1) b1 :: es b2 w v) ∧ SameOutside [] s t
    gives (.nopZp04 zp) (s.pc + 2) direct ∧ gives (.nopAbs a) (s.pc + 3) far ∧
    gives (.nopZpX14 zp) (s.pc + 2) indexed ∧ gives (.nopAbsX1C a) (s.pc + 3) farIndexed ∧
    gives (.nopZpX34 zp) (s.pc + 2) indexed ∧ gives (.nopAbsX3C a) (s.pc + 3) farIndexed ∧
    gives (.nopZp44 zp) (s.pc + 2) direct ∧ gives (.nopZpX54 zp) (s.pc + 2) indexed ∧
    gives (.nopAbsX5C a) (s.pc + 3) farIndexed ∧ gives (.nopZp64 zp) (s.pc + 2) direct ∧
    gives (.nopZpX74 zp) (s.pc + 2) indexed ∧ gives (.nopAbsX7C a) (s.pc + 3) farIndexed ∧
    gives (.nopZpXD4 zp) (s.pc + 2) indexed ∧ gives (.nopAbsXDC a) (s.pc + 3) farIndexed ∧
    gives (.nopZpXF4 zp) (s.pc + 2) indexed ∧ gives (.nopAbsXFC a) (s.pc + 3) farIndexed
end

