-- ==== Sys2Proof/Laws/Bytes.lean ====
section
/-! SUPPORT. Byte order and address arithmetic: an address is its two halves, the address of a late carry is the 16-bit sum (R110,
R124), the target of a branch is the signed 16-bit sum (R115, R117), the stack page is disjoint from the vector (R31). -/

namespace Sys2Proof.Machine

theorem addrOf_toNat (hi lo : Byte) : (addrOf hi lo).toNat = hi.toNat * 256 + lo.toNat := by
  have h : (addrOf hi lo).toNat = hi.toNat <<< 8 ||| lo.toNat := BitVec.toNat_append hi lo
  have := Nat.two_pow_add_eq_or_of_lt (i := 8) lo.isLt hi.toNat
  rw [h, Nat.shiftLeft_eq, Nat.mul_comm, ← this]

theorem lowByte_toNat (a : Addr) : (lowByte a).toNat = a.toNat % 256 := by
  simp [lowByte]

theorem highByte_toNat (a : Addr) : (highByte a).toNat = a.toNat / 256 := by
  have := a.isLt
  simp [highByte, Nat.shiftRight_eq_div_pow]
  omega

@[simp] theorem lowByte_addrOf (hi lo : Byte) : lowByte (addrOf hi lo) = lo := by
  apply BitVec.eq_of_toNat_eq
  have := lo.isLt
  rw [lowByte_toNat, addrOf_toNat]
  omega

@[simp] theorem highByte_addrOf (hi lo : Byte) : highByte (addrOf hi lo) = hi := by
  apply BitVec.eq_of_toNat_eq
  have := lo.isLt
  rw [highByte_toNat, addrOf_toNat]
  omega

@[simp] theorem addrOf_high_low (a : Addr) : addrOf (highByte a) (lowByte a) = a := by
  apply BitVec.eq_of_toNat_eq
  rw [addrOf_toNat, lowByte_toNat, highByte_toNat]
  omega

theorem zext16_toNat (b : Byte) : (zext16 b).toNat = b.toNat := by
  have := b.isLt
  simp [zext16]
  omega

theorem sext16_toNat (b : Byte) : (sext16 b).toNat = if b.msb then b.toNat + 65280 else b.toNat := by
  have := b.isLt
  rw [sext16, BitVec.toNat_signExtend]
  split <;> simp <;> omega

theorem byte_one_toNat : (1 : Byte).toNat = 1 := rfl

/-- R110, R124: the address whose late carry has been added is the 16-bit sum modulo 2^16. -/
theorem indexed_address_is_sum (hi lo i : Byte) :
    addrOf (fixHigh hi (addCarry lo i)) (lo + i) = addrOf hi lo + zext16 i := by
  apply BitVec.eq_of_toNat_eq
  have h1 := hi.isLt
  have h2 := lo.isLt
  have h3 := i.isLt
  rw [BitVec.toNat_add, addrOf_toNat, addrOf_toNat, zext16_toNat, fixHigh]
  by_cases h : 256 ≤ lo.toNat + i.toNat <;>
    simp only [addCarry, h, decide_true, decide_false, if_true, if_false, Bool.false_eq_true, BitVec.toNat_add,
      byte_one_toNat] <;> omega

/-- R110: without a carry the early address is the effective address. -/
theorem early_address_without_carry (hi lo i : Byte) (h : addCarry lo i = false) :
    addrOf hi (lo + i) = addrOf hi lo + zext16 i := by
  rw [← indexed_address_is_sum, h, fixHigh, if_neg (by decide)]

theorem unfixHigh_fixHigh (hi : Byte) (c : Bool) : unfixHigh (fixHigh hi c) c = hi := by
  cases c <;> simp [unfixHigh, fixHigh]

/-- R117: the displacement is a two's complement byte. -/
theorem byte_toInt (d : Byte) : d.toInt = if d.msb then (d.toNat : Int) - 256 else d.toNat := by
  rw [BitVec.toInt_eq_msb_cond]
  rfl

theorem byte_msb (d : Byte) : d.msb = decide (128 ≤ d.toNat) := by
  rw [BitVec.msb_eq_decide]

/-- R115: where PCL leaves 0 to 255, fixing PCH gives the signed 16-bit sum. -/
theorem branch_target_crossing (a : Addr) (d : Byte) (h : branchCrosses (lowByte a) d = true) :
    addrOf (fixPch (highByte a) d) (lowByte a + d) = a + sext16 d := by
  apply BitVec.eq_of_toNat_eq
  have h1 := (highByte a).isLt
  have h2 := (lowByte a).isLt
  have h3 := d.isLt
  have ha := highByte_toNat a
  have hl := lowByte_toNat a
  have hlt := a.isLt
  simp only [branchCrosses, decide_eq_true_eq, byte_toInt, byte_msb] at h
  rw [BitVec.toNat_add, addrOf_toNat, sext16_toNat, fixPch]
  simp only [byte_msb] at *
  by_cases hm : 128 ≤ d.toNat <;>
    simp only [hm, decide_true, decide_false, if_true, if_false, Bool.false_eq_true, BitVec.toNat_add, BitVec.toNat_sub,
      byte_one_toNat] at h ⊢ <;> omega

/-- R115: where PCL stays in 0 to 255, PCH is right as it stands. -/
theorem branch_target_same_page (a : Addr) (d : Byte) (h : branchCrosses (lowByte a) d = false) :
    addrOf (highByte a) (lowByte a + d) = a + sext16 d := by
  apply BitVec.eq_of_toNat_eq
  have h1 := (highByte a).isLt
  have h2 := (lowByte a).isLt
  have h3 := d.isLt
  have ha := highByte_toNat a
  have hl := lowByte_toNat a
  have hlt := a.isLt
  simp only [branchCrosses, decide_eq_false_iff_not, byte_toInt, byte_msb] at h
  rw [BitVec.toNat_add, addrOf_toNat, sext16_toNat]
  simp only [byte_msb] at *
  by_cases hm : 128 ≤ d.toNat <;>
    simp only [hm, decide_true, decide_false, if_true, if_false, Bool.false_eq_true, BitVec.toNat_add] at h ⊢ <;> omega

/-- R115, R117: a branch crosses exactly when the target's high byte differs from that of the address after the branch. -/
theorem branchCrosses_iff (a : Addr) (d : Byte) :
    branchCrosses (lowByte a) d = true ↔ highByte (a + sext16 d) ≠ highByte a := by
  constructor
  · intro h
    rw [← branch_target_crossing a d h, highByte_addrOf, fixPch]
    split <;> intro hc <;> simp at hc
  · intro h
    cases hb : branchCrosses (lowByte a) d
    · exact absurd (by rw [← branch_target_same_page a d hb, highByte_addrOf]) h
    · rfl

theorem lowByte_branch_target (a : Addr) (d : Byte) : lowByte (a + sext16 d) = lowByte a + d := by
  cases hb : branchCrosses (lowByte a) d
  · rw [← branch_target_same_page a d hb, lowByte_addrOf]
  · rw [← branch_target_crossing a d hb, lowByte_addrOf]

/-! ## The stack page (R5, R7, R31) -/

theorem stackAddr_injective {a b : Byte} (h : stackAddr a = stackAddr b) : a = b := by
  have := congrArg lowByte h
  simpa [stackAddr] using this

@[simp] theorem stackAddr_inj (a b : Byte) : stackAddr a = stackAddr b ↔ a = b :=
  ⟨stackAddr_injective, fun h => by rw [h]⟩

@[simp] theorem highByte_stackAddr (a : Byte) : highByte (stackAddr a) = 0x01 := highByte_addrOf _ _

theorem vectorLow_ne_stackAddr (a : Byte) : (0xFFFE : Addr) ≠ stackAddr a := by
  intro h
  have := congrArg highByte h
  rw [highByte_stackAddr] at this
  exact absurd this (by decide)

theorem vectorHigh_ne_stackAddr (a : Byte) : (0xFFFF : Addr) ≠ stackAddr a := by
  intro h
  have := congrArg highByte h
  rw [highByte_stackAddr] at this
  exact absurd this (by decide)

end Sys2Proof.Machine
end

