-- ==== Sys2Proof/Laws/State.lean ====
section
/-! SUPPORT. The small lemmas of State's updates: one per field and update, so that no later proof unfolds a record update. -/

namespace Sys2Proof.Machine

variable (s : State)

@[simp] theorem State.setRegs_regs (r : Regs) : (s.setRegs r).regs = r := rfl
@[simp] theorem State.setRegs_pc (r : Regs) : (s.setRegs r).pc = s.pc := rfl
@[simp] theorem State.setRegs_ir (r : Regs) : (s.setRegs r).ir = s.ir := rfl
@[simp] theorem State.setRegs_t (r : Regs) : (s.setRegs r).t = s.t := rfl
@[simp] theorem State.setRegs_tmp (r : Regs) : (s.setRegs r).tmp = s.tmp := rfl
@[simp] theorem State.setRegs_mem (r : Regs) : (s.setRegs r).mem = s.mem := rfl
@[simp] theorem State.setRegs_platform (r : Regs) : (s.setRegs r).platform = s.platform := rfl
@[simp] theorem State.setRegs_bus (r : Regs) : (s.setRegs r).bus = s.bus := rfl

@[simp] theorem State.setPc_regs (a : Addr) : (s.setPc a).regs = s.regs := rfl
@[simp] theorem State.setPc_pc (a : Addr) : (s.setPc a).pc = a := rfl
@[simp] theorem State.setPc_ir (a : Addr) : (s.setPc a).ir = s.ir := rfl
@[simp] theorem State.setPc_t (a : Addr) : (s.setPc a).t = s.t := rfl
@[simp] theorem State.setPc_tmp (a : Addr) : (s.setPc a).tmp = s.tmp := rfl
@[simp] theorem State.setPc_mem (a : Addr) : (s.setPc a).mem = s.mem := rfl
@[simp] theorem State.setPc_platform (a : Addr) : (s.setPc a).platform = s.platform := rfl
@[simp] theorem State.setPc_bus (a : Addr) : (s.setPc a).bus = s.bus := rfl

@[simp] theorem State.setIr_regs (b : Byte) : (s.setIr b).regs = s.regs := rfl
@[simp] theorem State.setIr_pc (b : Byte) : (s.setIr b).pc = s.pc := rfl
@[simp] theorem State.setIr_ir (b : Byte) : (s.setIr b).ir = b := rfl
@[simp] theorem State.setIr_t (b : Byte) : (s.setIr b).t = s.t := rfl
@[simp] theorem State.setIr_tmp (b : Byte) : (s.setIr b).tmp = s.tmp := rfl
@[simp] theorem State.setIr_mem (b : Byte) : (s.setIr b).mem = s.mem := rfl
@[simp] theorem State.setIr_platform (b : Byte) : (s.setIr b).platform = s.platform := rfl
@[simp] theorem State.setIr_bus (b : Byte) : (s.setIr b).bus = s.bus := rfl

@[simp] theorem State.setTmp_regs (x : Temps) : (s.setTmp x).regs = s.regs := rfl
@[simp] theorem State.setTmp_pc (x : Temps) : (s.setTmp x).pc = s.pc := rfl
@[simp] theorem State.setTmp_ir (x : Temps) : (s.setTmp x).ir = s.ir := rfl
@[simp] theorem State.setTmp_t (x : Temps) : (s.setTmp x).t = s.t := rfl
@[simp] theorem State.setTmp_tmp (x : Temps) : (s.setTmp x).tmp = x := rfl
@[simp] theorem State.setTmp_mem (x : Temps) : (s.setTmp x).mem = s.mem := rfl
@[simp] theorem State.setTmp_platform (x : Temps) : (s.setTmp x).platform = s.platform := rfl
@[simp] theorem State.setTmp_bus (x : Temps) : (s.setTmp x).bus = s.bus := rfl

@[simp] theorem State.setMem_regs (m : Memory) : (s.setMem m).regs = s.regs := rfl
@[simp] theorem State.setMem_pc (m : Memory) : (s.setMem m).pc = s.pc := rfl
@[simp] theorem State.setMem_ir (m : Memory) : (s.setMem m).ir = s.ir := rfl
@[simp] theorem State.setMem_t (m : Memory) : (s.setMem m).t = s.t := rfl
@[simp] theorem State.setMem_tmp (m : Memory) : (s.setMem m).tmp = s.tmp := rfl
@[simp] theorem State.setMem_mem (m : Memory) : (s.setMem m).mem = m := rfl
@[simp] theorem State.setMem_platform (m : Memory) : (s.setMem m).platform = s.platform := rfl
@[simp] theorem State.setMem_bus (m : Memory) : (s.setMem m).bus = s.bus := rfl

@[simp] theorem State.setPlatform_regs (p : Platform) : (s.setPlatform p).regs = s.regs := rfl
@[simp] theorem State.setPlatform_pc (p : Platform) : (s.setPlatform p).pc = s.pc := rfl
@[simp] theorem State.setPlatform_ir (p : Platform) : (s.setPlatform p).ir = s.ir := rfl
@[simp] theorem State.setPlatform_t (p : Platform) : (s.setPlatform p).t = s.t := rfl
@[simp] theorem State.setPlatform_tmp (p : Platform) : (s.setPlatform p).tmp = s.tmp := rfl
@[simp] theorem State.setPlatform_mem (p : Platform) : (s.setPlatform p).mem = s.mem := rfl
@[simp] theorem State.setPlatform_platform (p : Platform) : (s.setPlatform p).platform = p := rfl
@[simp] theorem State.setPlatform_bus (p : Platform) : (s.setPlatform p).bus = s.bus := rfl

@[simp] theorem State.setS_regs (b : Byte) : (s.setS b).regs = { s.regs with s := b } := rfl
@[simp] theorem State.setS_pc (b : Byte) : (s.setS b).pc = s.pc := rfl
@[simp] theorem State.setS_ir (b : Byte) : (s.setS b).ir = s.ir := rfl
@[simp] theorem State.setS_t (b : Byte) : (s.setS b).t = s.t := rfl
@[simp] theorem State.setS_tmp (b : Byte) : (s.setS b).tmp = s.tmp := rfl
@[simp] theorem State.setS_mem (b : Byte) : (s.setS b).mem = s.mem := rfl
@[simp] theorem State.setS_platform (b : Byte) : (s.setS b).platform = s.platform := rfl
@[simp] theorem State.setS_bus (b : Byte) : (s.setS b).bus = s.bus := rfl

@[simp] theorem State.setP_regs (p : Flags) : (s.setP p).regs = { s.regs with p := p } := rfl
@[simp] theorem State.setP_pc (p : Flags) : (s.setP p).pc = s.pc := rfl
@[simp] theorem State.setP_ir (p : Flags) : (s.setP p).ir = s.ir := rfl
@[simp] theorem State.setP_t (p : Flags) : (s.setP p).t = s.t := rfl
@[simp] theorem State.setP_tmp (p : Flags) : (s.setP p).tmp = s.tmp := rfl
@[simp] theorem State.setP_mem (p : Flags) : (s.setP p).mem = s.mem := rfl
@[simp] theorem State.setP_platform (p : Flags) : (s.setP p).platform = s.platform := rfl
@[simp] theorem State.setP_bus (p : Flags) : (s.setP p).bus = s.bus := rfl

@[simp] theorem State.logAccess_regs (e : BusEvent) : (s.logAccess e).regs = s.regs := rfl
@[simp] theorem State.logAccess_pc (e : BusEvent) : (s.logAccess e).pc = s.pc := rfl
@[simp] theorem State.logAccess_ir (e : BusEvent) : (s.logAccess e).ir = s.ir := rfl
@[simp] theorem State.logAccess_t (e : BusEvent) : (s.logAccess e).t = s.t + 1 := rfl
@[simp] theorem State.logAccess_tmp (e : BusEvent) : (s.logAccess e).tmp = s.tmp := rfl
@[simp] theorem State.logAccess_mem (e : BusEvent) : (s.logAccess e).mem = s.mem := rfl
@[simp] theorem State.logAccess_platform (e : BusEvent) : (s.logAccess e).platform = s.platform := rfl
@[simp] theorem State.logAccess_bus (e : BusEvent) : (s.logAccess e).bus = e :: s.bus := rfl

@[simp] theorem State.afterRead_regs (a : Addr) : (s.afterRead a).regs = s.regs := rfl
@[simp] theorem State.afterRead_pc (a : Addr) : (s.afterRead a).pc = s.pc := rfl
@[simp] theorem State.afterRead_ir (a : Addr) : (s.afterRead a).ir = s.ir := rfl
@[simp] theorem State.afterRead_t (a : Addr) : (s.afterRead a).t = s.t + 1 := rfl
@[simp] theorem State.afterRead_tmp (a : Addr) : (s.afterRead a).tmp = s.tmp := rfl
@[simp] theorem State.afterRead_mem (a : Addr) : (s.afterRead a).mem = s.mem := rfl
@[simp] theorem State.afterRead_platform (a : Addr) : (s.afterRead a).platform = s.platform := rfl
@[simp] theorem State.afterRead_bus (a : Addr) : (s.afterRead a).bus = rd a (s.busRead a) :: s.bus := rfl

@[simp] theorem State.endInstr_regs : (s.endInstr).regs = s.regs := rfl
@[simp] theorem State.endInstr_pc : (s.endInstr).pc = s.pc := rfl
@[simp] theorem State.endInstr_ir : (s.endInstr).ir = s.ir := rfl
@[simp] theorem State.endInstr_t : (s.endInstr).t = 1 := rfl
@[simp] theorem State.endInstr_tmp : (s.endInstr).tmp = Temps.dead := rfl
@[simp] theorem State.endInstr_mem : (s.endInstr).mem = s.mem := rfl
@[simp] theorem State.endInstr_platform : (s.endInstr).platform = s.platform := rfl
@[simp] theorem State.endInstr_bus : (s.endInstr).bus = s.bus := rfl

@[simp] theorem State.logAccess_trace (e : BusEvent) : (s.logAccess e).trace = s.trace ++ [e] := List.reverse_cons
@[simp] theorem State.afterRead_trace (a : Addr) : (s.afterRead a).trace = s.trace ++ [rd a (s.busRead a)] := List.reverse_cons
@[simp] theorem State.setRegs_trace (r : Regs) : (s.setRegs r).trace = s.trace := rfl
@[simp] theorem State.setPc_trace (a : Addr) : (s.setPc a).trace = s.trace := rfl
@[simp] theorem State.setIr_trace (b : Byte) : (s.setIr b).trace = s.trace := rfl
@[simp] theorem State.setTmp_trace (x : Temps) : (s.setTmp x).trace = s.trace := rfl
@[simp] theorem State.setMem_trace (m : Memory) : (s.setMem m).trace = s.trace := rfl
@[simp] theorem State.setPlatform_trace (p : Platform) : (s.setPlatform p).trace = s.trace := rfl
@[simp] theorem State.setS_trace (b : Byte) : (s.setS b).trace = s.trace := rfl
@[simp] theorem State.setP_trace (p : Flags) : (s.setP p).trace = s.trace := rfl
@[simp] theorem State.endInstr_trace : (s.endInstr).trace = s.trace := rfl

end Sys2Proof.Machine
end

