-- ==== Sys2Proof/Laws/Memory.lean ====
section
/-! SUPPORT. The laws of memory (R38): a read after a write gives the byte written, a write leaves every other address alone, every
operation keeps the canonical form, and in canonical form equal readings are equal data. -/

namespace Sys2Proof.Machine

theorem lookupCell_eraseCell_same (a : Nat) (m : Memory) : lookupCell a (eraseCell a m) = Config.unlistedByte := by
  induction m with
  | nil => rfl
  | cons c rest ih =>
    obtain ⟨k, b⟩ := c
    by_cases h : k = a <;> simp [eraseCell, lookupCell, h, ih]

theorem lookupCell_eraseCell_other {a b : Nat} (h : b ≠ a) (m : Memory) :
    lookupCell b (eraseCell a m) = lookupCell b m := by
  induction m with
  | nil => rfl
  | cons c rest ih =>
    obtain ⟨k, x⟩ := c
    by_cases hk : k = a
    · subst hk
      simp [eraseCell, lookupCell, ih, h.symm]
    · simp only [eraseCell, if_neg hk, lookupCell, ih]

theorem lookupCell_insertCell_erased (a : Nat) (v : Byte) (m : Memory) :
    lookupCell a (insertCell a v (eraseCell a m)) = v := by
  induction m with
  | nil => simp [eraseCell, insertCell, lookupCell]
  | cons c rest ih =>
    obtain ⟨k, x⟩ := c
    by_cases hk : k = a
    · simpa [eraseCell, hk] using ih
    · by_cases hlt : a < k <;> simp [eraseCell, insertCell, lookupCell, hk, hlt, ih]

theorem lookupCell_insertCell_other {a b : Nat} (h : b ≠ a) (v : Byte) (m : Memory) :
    lookupCell b (insertCell a v m) = lookupCell b m := by
  induction m with
  | nil => simp [insertCell, lookupCell, h.symm]
  | cons c rest ih =>
    obtain ⟨k, x⟩ := c
    by_cases hlt : a < k <;> simp [insertCell, lookupCell, hlt, h.symm, ih]

@[simp] theorem readByte_writeByte_same (m : Memory) (a : Addr) (v : Byte) : readByte (writeByte m a v) a = v := by
  by_cases h : v = Config.unlistedByte
  · simp [readByte, writeByte, h, lookupCell_eraseCell_same]
  · simp [readByte, writeByte, h, lookupCell_insertCell_erased]

theorem readByte_writeByte_other (m : Memory) {a b : Addr} (v : Byte) (h : b ≠ a) :
    readByte (writeByte m a v) b = readByte m b := by
  have hn : b.toNat ≠ a.toNat := fun e => h (BitVec.eq_of_toNat_eq e)
  unfold readByte writeByte
  split
  · exact lookupCell_eraseCell_other hn m
  · rw [lookupCell_insertCell_other hn, lookupCell_eraseCell_other hn]

theorem readByte_writeByte (m : Memory) (a b : Addr) (v : Byte) :
    readByte (writeByte m a v) b = if b = a then v else readByte m b := by
  split
  · subst b
    exact readByte_writeByte_same m a v
  · exact readByte_writeByte_other m v ‹_›

/-! ## The canonical form -/

theorem wfFrom_mono {lo hi : Nat} (h : lo ≤ hi) : ∀ {m : Memory}, Memory.wfFrom hi m = true → Memory.wfFrom lo m = true
  | [], _ => rfl
  | (k, b) :: rest, hw => by
    simp only [Memory.wfFrom, Bool.and_eq_true, decide_eq_true_eq] at hw ⊢
    exact ⟨⟨⟨by omega, hw.1.1.2⟩, hw.1.2⟩, hw.2⟩

theorem eraseCell_wfFrom (a : Nat) : ∀ {low : Nat} {m : Memory}, Memory.wfFrom low m = true →
    Memory.wfFrom low (eraseCell a m) = true
  | _, [], _ => rfl
  | low, (k, b) :: rest, hw => by
    simp only [Memory.wfFrom, Bool.and_eq_true, decide_eq_true_eq] at hw
    have ih := eraseCell_wfFrom a hw.2
    by_cases hk : k = a
    · rw [eraseCell, if_pos hk]
      exact wfFrom_mono (by omega) ih
    · simp only [eraseCell, if_neg hk, Memory.wfFrom, Bool.and_eq_true, decide_eq_true_eq]
      exact ⟨hw.1, ih⟩

theorem insertCell_wfFrom {a : Nat} {v : Byte} (ha : a < 65536) (hv : (v != Config.unlistedByte) = true) :
    ∀ {low : Nat} {m : Memory}, low ≤ a → Memory.wfFrom low m = true → (∀ c ∈ m, c.1 ≠ a) →
      Memory.wfFrom low (insertCell a v m) = true
  | low, [], hl, _, _ => by simp [insertCell, Memory.wfFrom, hl, ha, hv]
  | low, (k, b) :: rest, hl, hw, hne => by
    have hka : k ≠ a := hne (k, b) List.mem_cons_self
    simp only [Memory.wfFrom, Bool.and_eq_true, decide_eq_true_eq] at hw
    by_cases hlt : a < k
    · simp only [insertCell, if_pos hlt, Memory.wfFrom, Bool.and_eq_true, decide_eq_true_eq]
      exact ⟨⟨⟨hl, ha⟩, hv⟩, ⟨⟨by omega, hw.1.1.2⟩, hw.1.2⟩, hw.2⟩
    · simp only [insertCell, if_neg hlt, Memory.wfFrom, Bool.and_eq_true, decide_eq_true_eq]
      exact ⟨hw.1, insertCell_wfFrom ha hv (by omega) hw.2 fun c hc => hne c (List.mem_cons_of_mem _ hc)⟩

theorem not_mem_eraseCell (a : Nat) : ∀ (m : Memory), ∀ c ∈ eraseCell a m, c.1 ≠ a
  | [], _, h => by cases h
  | (k, b) :: rest, c, h => by
    by_cases hk : k = a
    · rw [eraseCell, if_pos hk] at h
      exact not_mem_eraseCell a rest c h
    · rw [eraseCell, if_neg hk] at h
      cases h with
      | head => exact hk
      | tail _ h' => exact not_mem_eraseCell a rest c h'

/-- Every write keeps the canonical form. -/
theorem writeByte_wf {m : Memory} (a : Addr) (v : Byte) (h : m.wf = true) : (writeByte m a v).wf = true := by
  unfold writeByte
  split
  · exact eraseCell_wfFrom _ h
  · exact insertCell_wfFrom a.isLt (by simpa using ‹_›) (Nat.zero_le _) (eraseCell_wfFrom _ h) (not_mem_eraseCell _ m)

theorem storeBytes_wf : ∀ {m : Memory} (a : Addr) (bs : List Byte), m.wf = true → (storeBytes m a bs).wf = true
  | _, _, [], h => h
  | _, a, b :: rest, h => storeBytes_wf (a + 1) rest (writeByte_wf a b h)

/-- Reading below a canonical memory's first address gives the unlisted byte. -/
theorem lookupCell_below : ∀ {low a : Nat} {m : Memory}, Memory.wfFrom low m = true → a < low →
    lookupCell a m = Config.unlistedByte
  | _, _, [], _, _ => rfl
  | low, a, (k, b) :: rest, hw, h => by
    simp only [Memory.wfFrom, Bool.and_eq_true, decide_eq_true_eq] at hw
    rw [lookupCell, if_neg (by omega)]
    exact lookupCell_below hw.2 (by omega)

theorem eq_of_lookupCell : ∀ {low : Nat} {m n : Memory}, Memory.wfFrom low m = true → Memory.wfFrom low n = true →
    (∀ a, a < 65536 → lookupCell a m = lookupCell a n) → m = n
  | _, [], [], _, _, _ => rfl
  | low, [], (k, b) :: rest, _, hn, h => by
    simp only [Memory.wfFrom, Bool.and_eq_true, decide_eq_true_eq, bne_iff_ne] at hn
    have := h k hn.1.1.2
    simp only [lookupCell, if_true] at this
    exact absurd this.symm hn.1.2
  | low, (k, b) :: rest, [], hm, _, h => by
    simp only [Memory.wfFrom, Bool.and_eq_true, decide_eq_true_eq, bne_iff_ne] at hm
    have := h k hm.1.1.2
    simp only [lookupCell, if_true] at this
    exact absurd this hm.1.2
  | low, (k, b) :: rest, (k', b') :: rest', hm, hn, h => by
    simp only [Memory.wfFrom, Bool.and_eq_true, decide_eq_true_eq, bne_iff_ne] at hm hn
    have hk : k = k' := by
      rcases Nat.lt_trichotomy k k' with hlt | he | hlt
      · have := h k hm.1.1.2
        rw [lookupCell, if_pos rfl, lookupCell, if_neg (by omega), lookupCell_below hn.2 (by omega)] at this
        exact absurd this hm.1.2
      · exact he
      · have := h k' hn.1.1.2
        rw [lookupCell, if_neg (by omega), lookupCell_below hm.2 (by omega), lookupCell, if_pos rfl] at this
        exact absurd this.symm hn.1.2
    subst hk
    have hb : b = b' := by simpa [lookupCell] using h k hm.1.1.2
    subst hb
    congr 1
    refine eq_of_lookupCell hm.2 hn.2 fun a ha => ?_
    by_cases hka : k = a
    · subst hka
      rw [lookupCell_below hm.2 (by omega), lookupCell_below hn.2 (by omega)]
    · have := h a ha
      simpa only [lookupCell, if_neg hka] using this

/-- Two canonical memories that read the same at every address are the same data. -/
theorem memory_ext {m n : Memory} (hm : m.wf = true) (hn : n.wf = true) (h : ∀ a : Addr, readByte m a = readByte n a) :
    m = n := by
  refine eq_of_lookupCell hm hn fun a ha => ?_
  have := h (BitVec.ofNat 16 a)
  simpa [readByte, Nat.mod_eq_of_lt ha] using this

theorem reset_mem_wf : State.reset.mem.wf = true := rfl

end Sys2Proof.Machine
end

