-- ==== Sys2Proof/Laws/Platform.lean ====
section
/-! SUPPORT. The laws of the platform (R38): what a read gives and a write leaves at each kind of address, that a write keeps the
canonical form, and that `withMemoryAt` puts memory where none was. -/

namespace Sys2Proof.Machine

open Sys2Proof.Safety

/-- Memory, plain or read-only, answers a read with the byte it holds. -/
theorem platformRead_of_backed {p : Platform} {a : Addr} (h : regionKind p a = .plain ∨ regionKind p a = .readOnly)
    (m : Memory) (history : List BusEvent) : platformRead p m history a = readByte m a := by
  rcases h with h | h <;> simp [platformRead, h]

theorem platformRead_of_device {p : Platform} {a : Addr} (h : regionKind p a = .device) (m : Memory)
    (history : List BusEvent) : platformRead p m history a = Config.deviceRead history a := by
  simp [platformRead, h]

theorem platformRead_of_unpopulated {p : Platform} {a : Addr} (h : regionKind p a = .unpopulated) (m : Memory)
    (history : List BusEvent) : platformRead p m history a = Config.unpopulatedRead history a := by
  simp [platformRead, h]

/-- What memory holds after a write: the byte at the address written where plain memory stands there, elsewhere what it held. -/
theorem readByte_platformWrite (p : Platform) (m : Memory) (a b : Addr) (v : Byte) :
    readByte (platformWrite p m a v) b = if b = a ∧ regionKind p a = .plain then v else readByte m b := by
  unfold platformWrite
  split <;> simp [readByte_writeByte, *]

/-- A write keeps the canonical form. -/
theorem platformWrite_wf (p : Platform) {m : Memory} (a : Addr) (v : Byte) (h : m.wf = true) :
    (platformWrite p m a v).wf = true := by
  unfold platformWrite
  split
  · exact writeByte_wf a v h
  all_goals exact h

/-- An address made memory is memory, and every address that was memory stays what it was. -/
theorem withMemoryAt_backed (p : Platform) (a : Addr) :
    regionKind (withMemoryAt p a) a = .plain ∨ regionKind (withMemoryAt p a) a = .readOnly := by
  unfold withMemoryAt
  split <;> simp [regionKind, *]

theorem withMemoryAt_keeps {p : Platform} {b : Addr} (h : regionKind p b = .plain ∨ regionKind p b = .readOnly) (a : Addr) :
    regionKind (withMemoryAt p a) b = .plain ∨ regionKind (withMemoryAt p a) b = .readOnly := by
  unfold withMemoryAt
  split
  · exact h
  · exact h
  all_goals
    simp only [regionKind]
    split
    · exact .inl rfl
    · exact h

@[simp] theorem replay_rd (p : Platform) (a : Addr) (b : Byte) (es history : List BusEvent) (m : Memory) :
    replay p (rd a b :: es) history m =
      if platformRead p m history a = b then replay p es (rd a b :: history) m else none := rfl

@[simp] theorem replay_wr (p : Platform) (a : Addr) (b : Byte) (es history : List BusEvent) (m : Memory) :
    replay p (wr a b :: es) history m = replay p es (wr a b :: history) (platformWrite p m a b) := rfl

@[simp] theorem replay_nil (p : Platform) (history : List BusEvent) (m : Memory) : replay p [] history m = some m := rfl

/-- Every read gets some byte: to name it in a proof. -/
theorem exists_read (p : Platform) (m : Memory) (history : List BusEvent) (a : Addr) :
    ∃ b, platformRead p m history a = b := ⟨_, rfl⟩

/-- With no region, every address is plain memory (R38's default). -/
@[simp] theorem platformRead_default (m : Memory) (history : List BusEvent) (a : Addr) :
    platformRead [] m history a = readByte m a := rfl

@[simp] theorem platformWrite_default (m : Memory) (a : Addr) (v : Byte) : platformWrite [] m a v = writeByte m a v := rfl

end Sys2Proof.Machine
end

