-- ==== Sys2Proof/Laws/Rows.lean ====
section
/-! SUPPORT. One cycle and a run of rows, said once: every cycle is one bus access (R1), only its write changes memory (R38), and
the rows of an instruction, replayed on the memory before, are what the platform answers and give the memory after (R40). -/

namespace Sys2Proof.Machine

open Sys2Proof.Safety

/-- The bus access of a row: its address with the values at the start of the cycle, and the byte moved (R1, R2). -/
def cycleAccess (k : Cycle) (s : State) : BusEvent :=
  match cycleWrites k s with
  | none => rd (cycleAddr k s) (s.busRead (cycleAddr k s))
  | some b => wr (cycleAddr k s) b

@[simp] theorem cycleCommit_mem (k : Cycle) (b : Byte) (s : State) : (cycleCommit k b s).mem = s.mem := by cases k <;> rfl

@[simp] theorem cycleCommit_platform (k : Cycle) (b : Byte) (s : State) : (cycleCommit k b s).platform = s.platform := by
  cases k <;> rfl

@[simp] theorem cycleCommit_bus (k : Cycle) (b : Byte) (s : State) : (cycleCommit k b s).bus = s.bus := by cases k <;> rfl

@[simp] theorem cycleCommit_t (k : Cycle) (b : Byte) (s : State) : (cycleCommit k b s).t = s.t := by cases k <;> rfl

/-- R1: a cycle makes exactly one access. -/
theorem runCycle_bus (k : Cycle) (s : State) : (runCycle k s).bus = cycleAccess k s :: s.bus := by
  unfold runCycle cycleAccess
  split <;> simp [*]

theorem runCycle_trace (k : Cycle) (s : State) : (runCycle k s).trace = s.trace ++ [cycleAccess k s] := by
  simp [State.trace, runCycle_bus]

/-- R19: a cycle moves T on by one. -/
theorem runCycle_t (k : Cycle) (s : State) : (runCycle k s).t = s.t + 1 := by
  unfold runCycle
  split <;> simp

/-- R38: what stands on the bus is an argument of the run. -/
theorem runCycle_platform (k : Cycle) (s : State) : (runCycle k s).platform = s.platform := by
  unfold runCycle
  split <;> simp

/-- R38: memory changes by the access alone. -/
theorem runCycle_mem (k : Cycle) (s : State) :
    (runCycle k s).mem = match cycleWrites k s with
      | none => s.mem
      | some b => platformWrite s.platform s.mem (cycleAddr k s) b := by
  unfold runCycle
  split <;> simp [*]

/-- R38: the access of a cycle is explained by the platform, and the rest of a run by what it leaves. -/
theorem replay_cycleAccess (k : Cycle) (s : State) (es : List BusEvent) :
    replay s.platform (cycleAccess k s :: es) s.bus s.mem =
      replay s.platform es (runCycle k s).bus (runCycle k s).mem := by
  rw [runCycle_mem, runCycle_bus]
  unfold cycleAccess
  split <;> simp [State.busRead, *]

theorem runCycle_wf (k : Cycle) {s : State} (h : s.mem.wf = true) : (runCycle k s).mem.wf = true := by
  rw [runCycle_mem]
  split
  · exact h
  · exact platformWrite_wf _ _ _ h

theorem runRows_append (ks ls : List Cycle) (s : State) : runRows (ks ++ ls) s = runRows ls (runRows ks s) := by
  induction ks generalizing s with
  | nil => rfl
  | cons k ks ih => exact ih _

/-- R38: no row changes what stands on the bus. -/
theorem runRows_platform (ks : List Cycle) (s : State) : (runRows ks s).platform = s.platform := by
  induction ks generalizing s with
  | nil => rfl
  | cons k ks ih =>
    simp only [runRows]
    split
    · rw [ih, runCycle_platform]
    · exact ih s

/-- A run of rows adds at most one access a row to the trace, and the accesses, replayed on the memory before, give the memory
after, each read with the byte that the platform answers. -/
theorem runRows_accesses (ks : List Cycle) (s : State) :
    ∃ es, (runRows ks s).trace = s.trace ++ es ∧ es.length ≤ ks.length ∧
      replay s.platform es s.bus s.mem = some (runRows ks s).mem := by
  induction ks generalizing s with
  | nil => exact ⟨[], by simp [runRows], Nat.le_refl _, rfl⟩
  | cons k ks ih =>
    simp only [runRows]
    split
    · obtain ⟨es, h1, h2, h3⟩ := ih (runCycle k s)
      refine ⟨cycleAccess k s :: es, ?_, Nat.succ_le_succ h2, ?_⟩
      · rw [h1, runCycle_trace, List.append_assoc]
        rfl
      · rw [replay_cycleAccess, ← h3, runCycle_platform]
    · obtain ⟨es, h1, h2, h3⟩ := ih s
      exact ⟨es, h1, Nat.le_succ_of_le h2, h3⟩

theorem runRows_wf (ks : List Cycle) {s : State} (h : s.mem.wf = true) : (runRows ks s).mem.wf = true := by
  induction ks generalizing s with
  | nil => exact h
  | cons k ks ih =>
    simp only [runRows]
    split
    · exact ih (runCycle_wf k h)
    · exact ih h

end Sys2Proof.Machine
end

