-- ==== Sys2Proof/Laws/Exec.lean ====
section
/-! SUPPORT. What an instruction can do, said once for all of them: it runs a row list that begins with the opcode fetch, sets the
registers, and is over; or it is refused as unstable. -/

namespace Sys2Proof.Machine

open Sys2Proof.Safety

/-- An answer reached from `s` by at most eight rows, the first the opcode fetch, the second unmarked; or a refusal as unstable. -/
def RunsRows (s : State) : Out → Prop
  | .next t => ∃ k ks r, t = ((runRows (.fetchOpcode :: k :: ks) s).setRegs r).endInstr ∧
      (∀ u, cycleHappens k u = true) ∧ ks.length ≤ 6
  | .fault _ => False
  | .refused r => ∃ b, r = .unstableOpcode b

theorem runRead_rows (m : Mnemonic) (k : Cycle) (ks : List Cycle) (s : State) (hk : ∀ u, cycleHappens k u = true)
    (hl : ks.length ≤ 6) : RunsRows s (runRead m (.fetchOpcode :: k :: ks) s) := ⟨k, ks, _, rfl, hk, hl⟩

theorem runPlain_rows (k : Cycle) (ks : List Cycle) (s : State) (hk : ∀ u, cycleHappens k u = true) (hl : ks.length ≤ 6) :
    RunsRows s (runPlain (.fetchOpcode :: k :: ks) s) := ⟨k, ks, (runRows (.fetchOpcode :: k :: ks) s).regs, rfl, hk, hl⟩

theorem runImplied_rows (m : Mnemonic) (s : State) : RunsRows s (runImplied m s) :=
  ⟨.readNext, [], _, rfl, fun _ => rfl, by decide⟩

theorem runImmediate_rows (m : Mnemonic) (v : Byte) (s : State) : RunsRows s (runImmediate m v s) :=
  ⟨.fetchValue v, [], _, rfl, fun _ => rfl, by decide⟩

theorem absoluteRead_rows (m : Mnemonic) (a : Addr) (s : State) : RunsRows s (absoluteRead m a s) :=
  runRead_rows m _ _ s (fun _ => rfl) (Nat.le_of_ble_eq_true rfl)

theorem absoluteRmw_rows (m : Mnemonic) (a : Addr) (s : State) : RunsRows s (absoluteRmw m a s) :=
  runPlain_rows _ _ s (fun _ => rfl) (Nat.le_of_ble_eq_true rfl)

theorem absoluteWrite_rows (m : Mnemonic) (a : Addr) (s : State) : RunsRows s (absoluteWrite m a s) :=
  runPlain_rows _ _ s (fun _ => rfl) (Nat.le_of_ble_eq_true rfl)

theorem zeroPageRead_rows (m : Mnemonic) (zp : Byte) (s : State) : RunsRows s (zeroPageRead m zp s) :=
  runRead_rows m _ _ s (fun _ => rfl) (Nat.le_of_ble_eq_true rfl)

theorem zeroPageRmw_rows (m : Mnemonic) (zp : Byte) (s : State) : RunsRows s (zeroPageRmw m zp s) :=
  runPlain_rows _ _ s (fun _ => rfl) (Nat.le_of_ble_eq_true rfl)

theorem zeroPageWrite_rows (m : Mnemonic) (zp : Byte) (s : State) : RunsRows s (zeroPageWrite m zp s) :=
  runPlain_rows _ _ s (fun _ => rfl) (Nat.le_of_ble_eq_true rfl)

theorem zeroPageIndexedRead_rows (m : Mnemonic) (i : Index) (zp : Byte) (s : State) : RunsRows s (zeroPageIndexedRead m i zp s) :=
  runRead_rows m _ _ s (fun _ => rfl) (Nat.le_of_ble_eq_true rfl)

theorem zeroPageIndexedRmw_rows (m : Mnemonic) (i : Index) (zp : Byte) (s : State) : RunsRows s (zeroPageIndexedRmw m i zp s) :=
  runPlain_rows _ _ s (fun _ => rfl) (Nat.le_of_ble_eq_true rfl)

theorem zeroPageIndexedWrite_rows (m : Mnemonic) (i : Index) (zp : Byte) (s : State) : RunsRows s (zeroPageIndexedWrite m i zp s) :=
  runPlain_rows _ _ s (fun _ => rfl) (Nat.le_of_ble_eq_true rfl)

theorem absoluteIndexedRead_rows (m : Mnemonic) (i : Index) (a : Addr) (s : State) : RunsRows s (absoluteIndexedRead m i a s) :=
  runRead_rows m _ _ s (fun _ => rfl) (Nat.le_of_ble_eq_true rfl)

theorem absoluteIndexedRmw_rows (m : Mnemonic) (i : Index) (a : Addr) (s : State) : RunsRows s (absoluteIndexedRmw m i a s) :=
  runPlain_rows _ _ s (fun _ => rfl) (Nat.le_of_ble_eq_true rfl)

theorem absoluteIndexedWrite_rows (m : Mnemonic) (i : Index) (a : Addr) (s : State) : RunsRows s (absoluteIndexedWrite m i a s) :=
  runPlain_rows _ _ s (fun _ => rfl) (Nat.le_of_ble_eq_true rfl)

theorem indexedIndirectRead_rows (m : Mnemonic) (p : Byte) (s : State) : RunsRows s (indexedIndirectRead m p s) :=
  runRead_rows m _ _ s (fun _ => rfl) (Nat.le_of_ble_eq_true rfl)

theorem indexedIndirectRmw_rows (m : Mnemonic) (p : Byte) (s : State) : RunsRows s (indexedIndirectRmw m p s) :=
  runPlain_rows _ _ s (fun _ => rfl) (Nat.le_of_ble_eq_true rfl)

theorem indexedIndirectWrite_rows (m : Mnemonic) (p : Byte) (s : State) : RunsRows s (indexedIndirectWrite m p s) :=
  runPlain_rows _ _ s (fun _ => rfl) (Nat.le_of_ble_eq_true rfl)

theorem indirectIndexedRead_rows (m : Mnemonic) (p : Byte) (s : State) : RunsRows s (indirectIndexedRead m p s) :=
  runRead_rows m _ _ s (fun _ => rfl) (Nat.le_of_ble_eq_true rfl)

theorem indirectIndexedRmw_rows (m : Mnemonic) (p : Byte) (s : State) : RunsRows s (indirectIndexedRmw m p s) :=
  runPlain_rows _ _ s (fun _ => rfl) (Nat.le_of_ble_eq_true rfl)

theorem indirectIndexedWrite_rows (m : Mnemonic) (p : Byte) (s : State) : RunsRows s (indirectIndexedWrite m p s) :=
  runPlain_rows _ _ s (fun _ => rfl) (Nat.le_of_ble_eq_true rfl)

theorem branch_rows (b : Branch) (d : Byte) (s : State) : RunsRows s (branch b d s) :=
  runPlain_rows _ _ s (fun _ => rfl) (Nat.le_of_ble_eq_true rfl)

theorem brk_rows (s : State) : RunsRows s (execBrk s) :=
  runPlain_rows .skipNext [.pushPch, .pushPcl, .pushP, .fetchVectorLow, .fetchVectorHigh] s (fun _ => rfl) (by decide)

theorem rti_rows (s : State) : RunsRows s (execRti s) :=
  runPlain_rows .readNext [.incrementS, .pullPIncrementS, .pullPclIncrementS, .pullPch] s (fun _ => rfl) (by decide)

/-- Every instruction, in every state. -/
theorem exec_rows (i : Instr) (s : State) : RunsRows s (exec i s) :=
  match i with
  | .brk => brk_rows s
  | .oraIndX p => indexedIndirectRead_rows .ora p s
  | .sloIndX p => indexedIndirectRmw_rows .slo p s
  | .nopZp04 zp => zeroPageRead_rows .nop zp s
  | .oraZp zp => zeroPageRead_rows .ora zp s
  | .aslZp zp => zeroPageRmw_rows .asl zp s
  | .sloZp zp => zeroPageRmw_rows .slo zp s
  | .php => runPlain_rows _ _ s (fun _ => rfl) (Nat.le_of_ble_eq_true rfl)
  | .oraImm v => runImmediate_rows .ora v s
  | .aslAcc => runImplied_rows .asl s
  | .nopAbs a => absoluteRead_rows .nop a s
  | .oraAbs a => absoluteRead_rows .ora a s
  | .aslAbs a => absoluteRmw_rows .asl a s
  | .sloAbs a => absoluteRmw_rows .slo a s
  | .bpl d => branch_rows .bpl d s
  | .oraIndY p => indirectIndexedRead_rows .ora p s
  | .sloIndY p => indirectIndexedRmw_rows .slo p s
  | .nopZpX14 zp => zeroPageIndexedRead_rows .nop .x zp s
  | .oraZpX zp => zeroPageIndexedRead_rows .ora .x zp s
  | .aslZpX zp => zeroPageIndexedRmw_rows .asl .x zp s
  | .sloZpX zp => zeroPageIndexedRmw_rows .slo .x zp s
  | .clc => runImplied_rows .clc s
  | .oraAbsY a => absoluteIndexedRead_rows .ora .y a s
  | .sloAbsY a => absoluteIndexedRmw_rows .slo .y a s
  | .nopAbsX1C a => absoluteIndexedRead_rows .nop .x a s
  | .oraAbsX a => absoluteIndexedRead_rows .ora .x a s
  | .aslAbsX a => absoluteIndexedRmw_rows .asl .x a s
  | .sloAbsX a => absoluteIndexedRmw_rows .slo .x a s
  | .jsr _ => runPlain_rows _ _ s (fun _ => rfl) (Nat.le_of_ble_eq_true rfl)
  | .andIndX p => indexedIndirectRead_rows .and p s
  | .rlaIndX p => indexedIndirectRmw_rows .rla p s
  | .bitZp zp => zeroPageRead_rows .bit zp s
  | .andZp zp => zeroPageRead_rows .and zp s
  | .rolZp zp => zeroPageRmw_rows .rol zp s
  | .rlaZp zp => zeroPageRmw_rows .rla zp s
  | .plp => runPlain_rows _ _ s (fun _ => rfl) (Nat.le_of_ble_eq_true rfl)
  | .andImm v => runImmediate_rows .and v s
  | .rolAcc => runImplied_rows .rol s
  | .bitAbs a => absoluteRead_rows .bit a s
  | .andAbs a => absoluteRead_rows .and a s
  | .rolAbs a => absoluteRmw_rows .rol a s
  | .rlaAbs a => absoluteRmw_rows .rla a s
  | .bmi d => branch_rows .bmi d s
  | .andIndY p => indirectIndexedRead_rows .and p s
  | .rlaIndY p => indirectIndexedRmw_rows .rla p s
  | .nopZpX34 zp => zeroPageIndexedRead_rows .nop .x zp s
  | .andZpX zp => zeroPageIndexedRead_rows .and .x zp s
  | .rolZpX zp => zeroPageIndexedRmw_rows .rol .x zp s
  | .rlaZpX zp => zeroPageIndexedRmw_rows .rla .x zp s
  | .sec => runImplied_rows .sec s
  | .andAbsY a => absoluteIndexedRead_rows .and .y a s
  | .rlaAbsY a => absoluteIndexedRmw_rows .rla .y a s
  | .nopAbsX3C a => absoluteIndexedRead_rows .nop .x a s
  | .andAbsX a => absoluteIndexedRead_rows .and .x a s
  | .rolAbsX a => absoluteIndexedRmw_rows .rol .x a s
  | .rlaAbsX a => absoluteIndexedRmw_rows .rla .x a s
  | .rti => rti_rows s
  | .eorIndX p => indexedIndirectRead_rows .eor p s
  | .sreIndX p => indexedIndirectRmw_rows .sre p s
  | .nopZp44 zp => zeroPageRead_rows .nop zp s
  | .eorZp zp => zeroPageRead_rows .eor zp s
  | .lsrZp zp => zeroPageRmw_rows .lsr zp s
  | .sreZp zp => zeroPageRmw_rows .sre zp s
  | .pha => runPlain_rows _ _ s (fun _ => rfl) (Nat.le_of_ble_eq_true rfl)
  | .eorImm v => runImmediate_rows .eor v s
  | .lsrAcc => runImplied_rows .lsr s
  | .jmpAbs _ => runPlain_rows _ _ s (fun _ => rfl) (Nat.le_of_ble_eq_true rfl)
  | .eorAbs a => absoluteRead_rows .eor a s
  | .lsrAbs a => absoluteRmw_rows .lsr a s
  | .sreAbs a => absoluteRmw_rows .sre a s
  | .bvc d => branch_rows .bvc d s
  | .eorIndY p => indirectIndexedRead_rows .eor p s
  | .sreIndY p => indirectIndexedRmw_rows .sre p s
  | .nopZpX54 zp => zeroPageIndexedRead_rows .nop .x zp s
  | .eorZpX zp => zeroPageIndexedRead_rows .eor .x zp s
  | .lsrZpX zp => zeroPageIndexedRmw_rows .lsr .x zp s
  | .sreZpX zp => zeroPageIndexedRmw_rows .sre .x zp s
  | .cli => runImplied_rows .cli s
  | .eorAbsY a => absoluteIndexedRead_rows .eor .y a s
  | .sreAbsY a => absoluteIndexedRmw_rows .sre .y a s
  | .nopAbsX5C a => absoluteIndexedRead_rows .nop .x a s
  | .eorAbsX a => absoluteIndexedRead_rows .eor .x a s
  | .lsrAbsX a => absoluteIndexedRmw_rows .lsr .x a s
  | .sreAbsX a => absoluteIndexedRmw_rows .sre .x a s
  | .rts => runPlain_rows _ _ s (fun _ => rfl) (Nat.le_of_ble_eq_true rfl)
  | .adcIndX p => indexedIndirectRead_rows .adc p s
  | .rraIndX p => indexedIndirectRmw_rows .rra p s
  | .nopZp64 zp => zeroPageRead_rows .nop zp s
  | .adcZp zp => zeroPageRead_rows .adc zp s
  | .rorZp zp => zeroPageRmw_rows .ror zp s
  | .rraZp zp => zeroPageRmw_rows .rra zp s
  | .pla => runPlain_rows _ _ s (fun _ => rfl) (Nat.le_of_ble_eq_true rfl)
  | .adcImm v => runImmediate_rows .adc v s
  | .rorAcc => runImplied_rows .ror s
  | .jmpInd _ => runPlain_rows _ _ s (fun _ => rfl) (Nat.le_of_ble_eq_true rfl)
  | .adcAbs a => absoluteRead_rows .adc a s
  | .rorAbs a => absoluteRmw_rows .ror a s
  | .rraAbs a => absoluteRmw_rows .rra a s
  | .bvs d => branch_rows .bvs d s
  | .adcIndY p => indirectIndexedRead_rows .adc p s
  | .rraIndY p => indirectIndexedRmw_rows .rra p s
  | .nopZpX74 zp => zeroPageIndexedRead_rows .nop .x zp s
  | .adcZpX zp => zeroPageIndexedRead_rows .adc .x zp s
  | .rorZpX zp => zeroPageIndexedRmw_rows .ror .x zp s
  | .rraZpX zp => zeroPageIndexedRmw_rows .rra .x zp s
  | .sei => runImplied_rows .sei s
  | .adcAbsY a => absoluteIndexedRead_rows .adc .y a s
  | .rraAbsY a => absoluteIndexedRmw_rows .rra .y a s
  | .nopAbsX7C a => absoluteIndexedRead_rows .nop .x a s
  | .adcAbsX a => absoluteIndexedRead_rows .adc .x a s
  | .rorAbsX a => absoluteIndexedRmw_rows .ror .x a s
  | .rraAbsX a => absoluteIndexedRmw_rows .rra .x a s
  | .staIndX p => indexedIndirectWrite_rows .sta p s
  | .saxIndX p => indexedIndirectWrite_rows .sax p s
  | .styZp zp => zeroPageWrite_rows .sty zp s
  | .staZp zp => zeroPageWrite_rows .sta zp s
  | .stxZp zp => zeroPageWrite_rows .stx zp s
  | .saxZp zp => zeroPageWrite_rows .sax zp s
  | .dey => runImplied_rows .dey s
  | .txa => runImplied_rows .txa s
  | .styAbs a => absoluteWrite_rows .sty a s
  | .staAbs a => absoluteWrite_rows .sta a s
  | .stxAbs a => absoluteWrite_rows .stx a s
  | .saxAbs a => absoluteWrite_rows .sax a s
  | .bcc d => branch_rows .bcc d s
  | .staIndY p => indirectIndexedWrite_rows .sta p s
  | .shaIndY _ => ⟨_, rfl⟩
  | .styZpX zp => zeroPageIndexedWrite_rows .sty .x zp s
  | .staZpX zp => zeroPageIndexedWrite_rows .sta .x zp s
  | .stxZpY zp => zeroPageIndexedWrite_rows .stx .y zp s
  | .saxZpY zp => zeroPageIndexedWrite_rows .sax .y zp s
  | .tya => runImplied_rows .tya s
  | .staAbsY a => absoluteIndexedWrite_rows .sta .y a s
  | .txs => runImplied_rows .txs s
  | .shsAbsY _ => ⟨_, rfl⟩
  | .shyAbsX _ => ⟨_, rfl⟩
  | .staAbsX a => absoluteIndexedWrite_rows .sta .x a s
  | .shxAbsY _ => ⟨_, rfl⟩
  | .shaAbsY _ => ⟨_, rfl⟩
  | .ldyImm v => runImmediate_rows .ldy v s
  | .ldaIndX p => indexedIndirectRead_rows .lda p s
  | .ldxImm v => runImmediate_rows .ldx v s
  | .laxIndX p => indexedIndirectRead_rows .lax p s
  | .ldyZp zp => zeroPageRead_rows .ldy zp s
  | .ldaZp zp => zeroPageRead_rows .lda zp s
  | .ldxZp zp => zeroPageRead_rows .ldx zp s
  | .laxZp zp => zeroPageRead_rows .lax zp s
  | .tay => runImplied_rows .tay s
  | .ldaImm v => runImmediate_rows .lda v s
  | .tax => runImplied_rows .tax s
  | .ldyAbs a => absoluteRead_rows .ldy a s
  | .ldaAbs a => absoluteRead_rows .lda a s
  | .ldxAbs a => absoluteRead_rows .ldx a s
  | .laxAbs a => absoluteRead_rows .lax a s
  | .bcs d => branch_rows .bcs d s
  | .ldaIndY p => indirectIndexedRead_rows .lda p s
  | .laxIndY p => indirectIndexedRead_rows .lax p s
  | .ldyZpX zp => zeroPageIndexedRead_rows .ldy .x zp s
  | .ldaZpX zp => zeroPageIndexedRead_rows .lda .x zp s
  | .ldxZpY zp => zeroPageIndexedRead_rows .ldx .y zp s
  | .laxZpY zp => zeroPageIndexedRead_rows .lax .y zp s
  | .clv => runImplied_rows .clv s
  | .ldaAbsY a => absoluteIndexedRead_rows .lda .y a s
  | .tsx => runImplied_rows .tsx s
  | .laeAbsY _ => ⟨_, rfl⟩
  | .ldyAbsX a => absoluteIndexedRead_rows .ldy .x a s
  | .ldaAbsX a => absoluteIndexedRead_rows .lda .x a s
  | .ldxAbsY a => absoluteIndexedRead_rows .ldx .y a s
  | .laxAbsY a => absoluteIndexedRead_rows .lax .y a s
  | .cpyImm v => runImmediate_rows .cpy v s
  | .cmpIndX p => indexedIndirectRead_rows .cmp p s
  | .dcpIndX p => indexedIndirectRmw_rows .dcp p s
  | .cpyZp zp => zeroPageRead_rows .cpy zp s
  | .cmpZp zp => zeroPageRead_rows .cmp zp s
  | .decZp zp => zeroPageRmw_rows .dec zp s
  | .dcpZp zp => zeroPageRmw_rows .dcp zp s
  | .iny => runImplied_rows .iny s
  | .cmpImm v => runImmediate_rows .cmp v s
  | .dex => runImplied_rows .dex s
  | .cpyAbs a => absoluteRead_rows .cpy a s
  | .cmpAbs a => absoluteRead_rows .cmp a s
  | .decAbs a => absoluteRmw_rows .dec a s
  | .dcpAbs a => absoluteRmw_rows .dcp a s
  | .bne d => branch_rows .bne d s
  | .cmpIndY p => indirectIndexedRead_rows .cmp p s
  | .dcpIndY p => indirectIndexedRmw_rows .dcp p s
  | .nopZpXD4 zp => zeroPageIndexedRead_rows .nop .x zp s
  | .cmpZpX zp => zeroPageIndexedRead_rows .cmp .x zp s
  | .decZpX zp => zeroPageIndexedRmw_rows .dec .x zp s
  | .dcpZpX zp => zeroPageIndexedRmw_rows .dcp .x zp s
  | .cld => runImplied_rows .cld s
  | .cmpAbsY a => absoluteIndexedRead_rows .cmp .y a s
  | .dcpAbsY a => absoluteIndexedRmw_rows .dcp .y a s
  | .nopAbsXDC a => absoluteIndexedRead_rows .nop .x a s
  | .cmpAbsX a => absoluteIndexedRead_rows .cmp .x a s
  | .decAbsX a => absoluteIndexedRmw_rows .dec .x a s
  | .dcpAbsX a => absoluteIndexedRmw_rows .dcp .x a s
  | .cpxImm v => runImmediate_rows .cpx v s
  | .sbcIndX p => indexedIndirectRead_rows .sbc p s
  | .isbIndX p => indexedIndirectRmw_rows .isb p s
  | .cpxZp zp => zeroPageRead_rows .cpx zp s
  | .sbcZp zp => zeroPageRead_rows .sbc zp s
  | .incZp zp => zeroPageRmw_rows .inc zp s
  | .isbZp zp => zeroPageRmw_rows .isb zp s
  | .inx => runImplied_rows .inx s
  | .sbcImm v => runImmediate_rows .sbc v s
  | .nop => runImplied_rows .nop s
  | .cpxAbs a => absoluteRead_rows .cpx a s
  | .sbcAbs a => absoluteRead_rows .sbc a s
  | .incAbs a => absoluteRmw_rows .inc a s
  | .isbAbs a => absoluteRmw_rows .isb a s
  | .beq d => branch_rows .beq d s
  | .sbcIndY p => indirectIndexedRead_rows .sbc p s
  | .isbIndY p => indirectIndexedRmw_rows .isb p s
  | .nopZpXF4 zp => zeroPageIndexedRead_rows .nop .x zp s
  | .sbcZpX zp => zeroPageIndexedRead_rows .sbc .x zp s
  | .incZpX zp => zeroPageIndexedRmw_rows .inc .x zp s
  | .isbZpX zp => zeroPageIndexedRmw_rows .isb .x zp s
  | .sed => runImplied_rows .sed s
  | .sbcAbsY a => absoluteIndexedRead_rows .sbc .y a s
  | .isbAbsY a => absoluteIndexedRmw_rows .isb .y a s
  | .nopAbsXFC a => absoluteIndexedRead_rows .nop .x a s
  | .sbcAbsX a => absoluteIndexedRead_rows .sbc .x a s
  | .incAbsX a => absoluteIndexedRmw_rows .inc .x a s
  | .isbAbsX a => absoluteIndexedRmw_rows .isb .x a s

end Sys2Proof.Machine
end

