-- ==== Sys2Proof/Laws/PerInstr.lean ====
section
/-! SUPPORT. Facts about every instruction as syntax, one lemma per constructor. Family `Written`: the written form of the instruction
is a pair of mnemonic and mode that has a row (spec/30_encoding.md R57), and its bytes have the mode's length (R50, R51). -/

namespace Sys2Proof.Laws.Written

/-- The instruction is well formed and takes the opcode byte and its mode's operand bytes. -/
def Statement (i : Instr) : Prop := i.wellFormed = true ∧ (encode i).length = 1 + i.mode.operandLength

theorem brk : Statement (.brk) := ⟨rfl, rfl⟩
theorem oraIndX (p : Byte) : Statement (.oraIndX p) := ⟨rfl, rfl⟩
theorem sloIndX (p : Byte) : Statement (.sloIndX p) := ⟨rfl, rfl⟩
theorem nopZp04 (zp : Byte) : Statement (.nopZp04 zp) := ⟨rfl, rfl⟩
theorem oraZp (zp : Byte) : Statement (.oraZp zp) := ⟨rfl, rfl⟩
theorem aslZp (zp : Byte) : Statement (.aslZp zp) := ⟨rfl, rfl⟩
theorem sloZp (zp : Byte) : Statement (.sloZp zp) := ⟨rfl, rfl⟩
theorem php : Statement (.php) := ⟨rfl, rfl⟩
theorem oraImm (v : Byte) : Statement (.oraImm v) := ⟨rfl, rfl⟩
theorem aslAcc : Statement (.aslAcc) := ⟨rfl, rfl⟩
theorem nopAbs (a : Addr) : Statement (.nopAbs a) := ⟨rfl, rfl⟩
theorem oraAbs (a : Addr) : Statement (.oraAbs a) := ⟨rfl, rfl⟩
theorem aslAbs (a : Addr) : Statement (.aslAbs a) := ⟨rfl, rfl⟩
theorem sloAbs (a : Addr) : Statement (.sloAbs a) := ⟨rfl, rfl⟩
theorem bpl (d : Byte) : Statement (.bpl d) := ⟨rfl, rfl⟩
theorem oraIndY (p : Byte) : Statement (.oraIndY p) := ⟨rfl, rfl⟩
theorem sloIndY (p : Byte) : Statement (.sloIndY p) := ⟨rfl, rfl⟩
theorem nopZpX14 (zp : Byte) : Statement (.nopZpX14 zp) := ⟨rfl, rfl⟩
theorem oraZpX (zp : Byte) : Statement (.oraZpX zp) := ⟨rfl, rfl⟩
theorem aslZpX (zp : Byte) : Statement (.aslZpX zp) := ⟨rfl, rfl⟩
theorem sloZpX (zp : Byte) : Statement (.sloZpX zp) := ⟨rfl, rfl⟩
theorem clc : Statement (.clc) := ⟨rfl, rfl⟩
theorem oraAbsY (a : Addr) : Statement (.oraAbsY a) := ⟨rfl, rfl⟩
theorem sloAbsY (a : Addr) : Statement (.sloAbsY a) := ⟨rfl, rfl⟩
theorem nopAbsX1C (a : Addr) : Statement (.nopAbsX1C a) := ⟨rfl, rfl⟩
theorem oraAbsX (a : Addr) : Statement (.oraAbsX a) := ⟨rfl, rfl⟩
theorem aslAbsX (a : Addr) : Statement (.aslAbsX a) := ⟨rfl, rfl⟩
theorem sloAbsX (a : Addr) : Statement (.sloAbsX a) := ⟨rfl, rfl⟩
theorem jsr (a : Addr) : Statement (.jsr a) := ⟨rfl, rfl⟩
theorem andIndX (p : Byte) : Statement (.andIndX p) := ⟨rfl, rfl⟩
theorem rlaIndX (p : Byte) : Statement (.rlaIndX p) := ⟨rfl, rfl⟩
theorem bitZp (zp : Byte) : Statement (.bitZp zp) := ⟨rfl, rfl⟩
theorem andZp (zp : Byte) : Statement (.andZp zp) := ⟨rfl, rfl⟩
theorem rolZp (zp : Byte) : Statement (.rolZp zp) := ⟨rfl, rfl⟩
theorem rlaZp (zp : Byte) : Statement (.rlaZp zp) := ⟨rfl, rfl⟩
theorem plp : Statement (.plp) := ⟨rfl, rfl⟩
theorem andImm (v : Byte) : Statement (.andImm v) := ⟨rfl, rfl⟩
theorem rolAcc : Statement (.rolAcc) := ⟨rfl, rfl⟩
theorem bitAbs (a : Addr) : Statement (.bitAbs a) := ⟨rfl, rfl⟩
theorem andAbs (a : Addr) : Statement (.andAbs a) := ⟨rfl, rfl⟩
theorem rolAbs (a : Addr) : Statement (.rolAbs a) := ⟨rfl, rfl⟩
theorem rlaAbs (a : Addr) : Statement (.rlaAbs a) := ⟨rfl, rfl⟩
theorem bmi (d : Byte) : Statement (.bmi d) := ⟨rfl, rfl⟩
theorem andIndY (p : Byte) : Statement (.andIndY p) := ⟨rfl, rfl⟩
theorem rlaIndY (p : Byte) : Statement (.rlaIndY p) := ⟨rfl, rfl⟩
theorem nopZpX34 (zp : Byte) : Statement (.nopZpX34 zp) := ⟨rfl, rfl⟩
theorem andZpX (zp : Byte) : Statement (.andZpX zp) := ⟨rfl, rfl⟩
theorem rolZpX (zp : Byte) : Statement (.rolZpX zp) := ⟨rfl, rfl⟩
theorem rlaZpX (zp : Byte) : Statement (.rlaZpX zp) := ⟨rfl, rfl⟩
theorem sec : Statement (.sec) := ⟨rfl, rfl⟩
theorem andAbsY (a : Addr) : Statement (.andAbsY a) := ⟨rfl, rfl⟩
theorem rlaAbsY (a : Addr) : Statement (.rlaAbsY a) := ⟨rfl, rfl⟩
theorem nopAbsX3C (a : Addr) : Statement (.nopAbsX3C a) := ⟨rfl, rfl⟩
theorem andAbsX (a : Addr) : Statement (.andAbsX a) := ⟨rfl, rfl⟩
theorem rolAbsX (a : Addr) : Statement (.rolAbsX a) := ⟨rfl, rfl⟩
theorem rlaAbsX (a : Addr) : Statement (.rlaAbsX a) := ⟨rfl, rfl⟩
theorem rti : Statement (.rti) := ⟨rfl, rfl⟩
theorem eorIndX (p : Byte) : Statement (.eorIndX p) := ⟨rfl, rfl⟩
theorem sreIndX (p : Byte) : Statement (.sreIndX p) := ⟨rfl, rfl⟩
theorem nopZp44 (zp : Byte) : Statement (.nopZp44 zp) := ⟨rfl, rfl⟩
theorem eorZp (zp : Byte) : Statement (.eorZp zp) := ⟨rfl, rfl⟩
theorem lsrZp (zp : Byte) : Statement (.lsrZp zp) := ⟨rfl, rfl⟩
theorem sreZp (zp : Byte) : Statement (.sreZp zp) := ⟨rfl, rfl⟩
theorem pha : Statement (.pha) := ⟨rfl, rfl⟩
theorem eorImm (v : Byte) : Statement (.eorImm v) := ⟨rfl, rfl⟩
theorem lsrAcc : Statement (.lsrAcc) := ⟨rfl, rfl⟩
theorem jmpAbs (a : Addr) : Statement (.jmpAbs a) := ⟨rfl, rfl⟩
theorem eorAbs (a : Addr) : Statement (.eorAbs a) := ⟨rfl, rfl⟩
theorem lsrAbs (a : Addr) : Statement (.lsrAbs a) := ⟨rfl, rfl⟩
theorem sreAbs (a : Addr) : Statement (.sreAbs a) := ⟨rfl, rfl⟩
theorem bvc (d : Byte) : Statement (.bvc d) := ⟨rfl, rfl⟩
theorem eorIndY (p : Byte) : Statement (.eorIndY p) := ⟨rfl, rfl⟩
theorem sreIndY (p : Byte) : Statement (.sreIndY p) := ⟨rfl, rfl⟩
theorem nopZpX54 (zp : Byte) : Statement (.nopZpX54 zp) := ⟨rfl, rfl⟩
theorem eorZpX (zp : Byte) : Statement (.eorZpX zp) := ⟨rfl, rfl⟩
theorem lsrZpX (zp : Byte) : Statement (.lsrZpX zp) := ⟨rfl, rfl⟩
theorem sreZpX (zp : Byte) : Statement (.sreZpX zp) := ⟨rfl, rfl⟩
theorem cli : Statement (.cli) := ⟨rfl, rfl⟩
theorem eorAbsY (a : Addr) : Statement (.eorAbsY a) := ⟨rfl, rfl⟩
theorem sreAbsY (a : Addr) : Statement (.sreAbsY a) := ⟨rfl, rfl⟩
theorem nopAbsX5C (a : Addr) : Statement (.nopAbsX5C a) := ⟨rfl, rfl⟩
theorem eorAbsX (a : Addr) : Statement (.eorAbsX a) := ⟨rfl, rfl⟩
theorem lsrAbsX (a : Addr) : Statement (.lsrAbsX a) := ⟨rfl, rfl⟩
theorem sreAbsX (a : Addr) : Statement (.sreAbsX a) := ⟨rfl, rfl⟩
theorem rts : Statement (.rts) := ⟨rfl, rfl⟩
theorem adcIndX (p : Byte) : Statement (.adcIndX p) := ⟨rfl, rfl⟩
theorem rraIndX (p : Byte) : Statement (.rraIndX p) := ⟨rfl, rfl⟩
theorem nopZp64 (zp : Byte) : Statement (.nopZp64 zp) := ⟨rfl, rfl⟩
theorem adcZp (zp : Byte) : Statement (.adcZp zp) := ⟨rfl, rfl⟩
theorem rorZp (zp : Byte) : Statement (.rorZp zp) := ⟨rfl, rfl⟩
theorem rraZp (zp : Byte) : Statement (.rraZp zp) := ⟨rfl, rfl⟩
theorem pla : Statement (.pla) := ⟨rfl, rfl⟩
theorem adcImm (v : Byte) : Statement (.adcImm v) := ⟨rfl, rfl⟩
theorem rorAcc : Statement (.rorAcc) := ⟨rfl, rfl⟩
theorem jmpInd (a : Addr) : Statement (.jmpInd a) := ⟨rfl, rfl⟩
theorem adcAbs (a : Addr) : Statement (.adcAbs a) := ⟨rfl, rfl⟩
theorem rorAbs (a : Addr) : Statement (.rorAbs a) := ⟨rfl, rfl⟩
theorem rraAbs (a : Addr) : Statement (.rraAbs a) := ⟨rfl, rfl⟩
theorem bvs (d : Byte) : Statement (.bvs d) := ⟨rfl, rfl⟩
theorem adcIndY (p : Byte) : Statement (.adcIndY p) := ⟨rfl, rfl⟩
theorem rraIndY (p : Byte) : Statement (.rraIndY p) := ⟨rfl, rfl⟩
theorem nopZpX74 (zp : Byte) : Statement (.nopZpX74 zp) := ⟨rfl, rfl⟩
theorem adcZpX (zp : Byte) : Statement (.adcZpX zp) := ⟨rfl, rfl⟩
theorem rorZpX (zp : Byte) : Statement (.rorZpX zp) := ⟨rfl, rfl⟩
theorem rraZpX (zp : Byte) : Statement (.rraZpX zp) := ⟨rfl, rfl⟩
theorem sei : Statement (.sei) := ⟨rfl, rfl⟩
theorem adcAbsY (a : Addr) : Statement (.adcAbsY a) := ⟨rfl, rfl⟩
theorem rraAbsY (a : Addr) : Statement (.rraAbsY a) := ⟨rfl, rfl⟩
theorem nopAbsX7C (a : Addr) : Statement (.nopAbsX7C a) := ⟨rfl, rfl⟩
theorem adcAbsX (a : Addr) : Statement (.adcAbsX a) := ⟨rfl, rfl⟩
theorem rorAbsX (a : Addr) : Statement (.rorAbsX a) := ⟨rfl, rfl⟩
theorem rraAbsX (a : Addr) : Statement (.rraAbsX a) := ⟨rfl, rfl⟩
theorem staIndX (p : Byte) : Statement (.staIndX p) := ⟨rfl, rfl⟩
theorem saxIndX (p : Byte) : Statement (.saxIndX p) := ⟨rfl, rfl⟩
theorem styZp (zp : Byte) : Statement (.styZp zp) := ⟨rfl, rfl⟩
theorem staZp (zp : Byte) : Statement (.staZp zp) := ⟨rfl, rfl⟩
theorem stxZp (zp : Byte) : Statement (.stxZp zp) := ⟨rfl, rfl⟩
theorem saxZp (zp : Byte) : Statement (.saxZp zp) := ⟨rfl, rfl⟩
theorem dey : Statement (.dey) := ⟨rfl, rfl⟩
theorem txa : Statement (.txa) := ⟨rfl, rfl⟩
theorem styAbs (a : Addr) : Statement (.styAbs a) := ⟨rfl, rfl⟩
theorem staAbs (a : Addr) : Statement (.staAbs a) := ⟨rfl, rfl⟩
theorem stxAbs (a : Addr) : Statement (.stxAbs a) := ⟨rfl, rfl⟩
theorem saxAbs (a : Addr) : Statement (.saxAbs a) := ⟨rfl, rfl⟩
theorem bcc (d : Byte) : Statement (.bcc d) := ⟨rfl, rfl⟩
theorem staIndY (p : Byte) : Statement (.staIndY p) := ⟨rfl, rfl⟩
theorem shaIndY (p : Byte) : Statement (.shaIndY p) := ⟨rfl, rfl⟩
theorem styZpX (zp : Byte) : Statement (.styZpX zp) := ⟨rfl, rfl⟩
theorem staZpX (zp : Byte) : Statement (.staZpX zp) := ⟨rfl, rfl⟩
theorem stxZpY (zp : Byte) : Statement (.stxZpY zp) := ⟨rfl, rfl⟩
theorem saxZpY (zp : Byte) : Statement (.saxZpY zp) := ⟨rfl, rfl⟩
theorem tya : Statement (.tya) := ⟨rfl, rfl⟩
theorem staAbsY (a : Addr) : Statement (.staAbsY a) := ⟨rfl, rfl⟩
theorem txs : Statement (.txs) := ⟨rfl, rfl⟩
theorem shsAbsY (a : Addr) : Statement (.shsAbsY a) := ⟨rfl, rfl⟩
theorem shyAbsX (a : Addr) : Statement (.shyAbsX a) := ⟨rfl, rfl⟩
theorem staAbsX (a : Addr) : Statement (.staAbsX a) := ⟨rfl, rfl⟩
theorem shxAbsY (a : Addr) : Statement (.shxAbsY a) := ⟨rfl, rfl⟩
theorem shaAbsY (a : Addr) : Statement (.shaAbsY a) := ⟨rfl, rfl⟩
theorem ldyImm (v : Byte) : Statement (.ldyImm v) := ⟨rfl, rfl⟩
theorem ldaIndX (p : Byte) : Statement (.ldaIndX p) := ⟨rfl, rfl⟩
theorem ldxImm (v : Byte) : Statement (.ldxImm v) := ⟨rfl, rfl⟩
theorem laxIndX (p : Byte) : Statement (.laxIndX p) := ⟨rfl, rfl⟩
theorem ldyZp (zp : Byte) : Statement (.ldyZp zp) := ⟨rfl, rfl⟩
theorem ldaZp (zp : Byte) : Statement (.ldaZp zp) := ⟨rfl, rfl⟩
theorem ldxZp (zp : Byte) : Statement (.ldxZp zp) := ⟨rfl, rfl⟩
theorem laxZp (zp : Byte) : Statement (.laxZp zp) := ⟨rfl, rfl⟩
theorem tay : Statement (.tay) := ⟨rfl, rfl⟩
theorem ldaImm (v : Byte) : Statement (.ldaImm v) := ⟨rfl, rfl⟩
theorem tax : Statement (.tax) := ⟨rfl, rfl⟩
theorem ldyAbs (a : Addr) : Statement (.ldyAbs a) := ⟨rfl, rfl⟩
theorem ldaAbs (a : Addr) : Statement (.ldaAbs a) := ⟨rfl, rfl⟩
theorem ldxAbs (a : Addr) : Statement (.ldxAbs a) := ⟨rfl, rfl⟩
theorem laxAbs (a : Addr) : Statement (.laxAbs a) := ⟨rfl, rfl⟩
theorem bcs (d : Byte) : Statement (.bcs d) := ⟨rfl, rfl⟩
theorem ldaIndY (p : Byte) : Statement (.ldaIndY p) := ⟨rfl, rfl⟩
theorem laxIndY (p : Byte) : Statement (.laxIndY p) := ⟨rfl, rfl⟩
theorem ldyZpX (zp : Byte) : Statement (.ldyZpX zp) := ⟨rfl, rfl⟩
theorem ldaZpX (zp : Byte) : Statement (.ldaZpX zp) := ⟨rfl, rfl⟩
theorem ldxZpY (zp : Byte) : Statement (.ldxZpY zp) := ⟨rfl, rfl⟩
theorem laxZpY (zp : Byte) : Statement (.laxZpY zp) := ⟨rfl, rfl⟩
theorem clv : Statement (.clv) := ⟨rfl, rfl⟩
theorem ldaAbsY (a : Addr) : Statement (.ldaAbsY a) := ⟨rfl, rfl⟩
theorem tsx : Statement (.tsx) := ⟨rfl, rfl⟩
theorem laeAbsY (a : Addr) : Statement (.laeAbsY a) := ⟨rfl, rfl⟩
theorem ldyAbsX (a : Addr) : Statement (.ldyAbsX a) := ⟨rfl, rfl⟩
theorem ldaAbsX (a : Addr) : Statement (.ldaAbsX a) := ⟨rfl, rfl⟩
theorem ldxAbsY (a : Addr) : Statement (.ldxAbsY a) := ⟨rfl, rfl⟩
theorem laxAbsY (a : Addr) : Statement (.laxAbsY a) := ⟨rfl, rfl⟩
theorem cpyImm (v : Byte) : Statement (.cpyImm v) := ⟨rfl, rfl⟩
theorem cmpIndX (p : Byte) : Statement (.cmpIndX p) := ⟨rfl, rfl⟩
theorem dcpIndX (p : Byte) : Statement (.dcpIndX p) := ⟨rfl, rfl⟩
theorem cpyZp (zp : Byte) : Statement (.cpyZp zp) := ⟨rfl, rfl⟩
theorem cmpZp (zp : Byte) : Statement (.cmpZp zp) := ⟨rfl, rfl⟩
theorem decZp (zp : Byte) : Statement (.decZp zp) := ⟨rfl, rfl⟩
theorem dcpZp (zp : Byte) : Statement (.dcpZp zp) := ⟨rfl, rfl⟩
theorem iny : Statement (.iny) := ⟨rfl, rfl⟩
theorem cmpImm (v : Byte) : Statement (.cmpImm v) := ⟨rfl, rfl⟩
theorem dex : Statement (.dex) := ⟨rfl, rfl⟩
theorem cpyAbs (a : Addr) : Statement (.cpyAbs a) := ⟨rfl, rfl⟩
theorem cmpAbs (a : Addr) : Statement (.cmpAbs a) := ⟨rfl, rfl⟩
theorem decAbs (a : Addr) : Statement (.decAbs a) := ⟨rfl, rfl⟩
theorem dcpAbs (a : Addr) : Statement (.dcpAbs a) := ⟨rfl, rfl⟩
theorem bne (d : Byte) : Statement (.bne d) := ⟨rfl, rfl⟩
theorem cmpIndY (p : Byte) : Statement (.cmpIndY p) := ⟨rfl, rfl⟩
theorem dcpIndY (p : Byte) : Statement (.dcpIndY p) := ⟨rfl, rfl⟩
theorem nopZpXD4 (zp : Byte) : Statement (.nopZpXD4 zp) := ⟨rfl, rfl⟩
theorem cmpZpX (zp : Byte) : Statement (.cmpZpX zp) := ⟨rfl, rfl⟩
theorem decZpX (zp : Byte) : Statement (.decZpX zp) := ⟨rfl, rfl⟩
theorem dcpZpX (zp : Byte) : Statement (.dcpZpX zp) := ⟨rfl, rfl⟩
theorem cld : Statement (.cld) := ⟨rfl, rfl⟩
theorem cmpAbsY (a : Addr) : Statement (.cmpAbsY a) := ⟨rfl, rfl⟩
theorem dcpAbsY (a : Addr) : Statement (.dcpAbsY a) := ⟨rfl, rfl⟩
theorem nopAbsXDC (a : Addr) : Statement (.nopAbsXDC a) := ⟨rfl, rfl⟩
theorem cmpAbsX (a : Addr) : Statement (.cmpAbsX a) := ⟨rfl, rfl⟩
theorem decAbsX (a : Addr) : Statement (.decAbsX a) := ⟨rfl, rfl⟩
theorem dcpAbsX (a : Addr) : Statement (.dcpAbsX a) := ⟨rfl, rfl⟩
theorem cpxImm (v : Byte) : Statement (.cpxImm v) := ⟨rfl, rfl⟩
theorem sbcIndX (p : Byte) : Statement (.sbcIndX p) := ⟨rfl, rfl⟩
theorem isbIndX (p : Byte) : Statement (.isbIndX p) := ⟨rfl, rfl⟩
theorem cpxZp (zp : Byte) : Statement (.cpxZp zp) := ⟨rfl, rfl⟩
theorem sbcZp (zp : Byte) : Statement (.sbcZp zp) := ⟨rfl, rfl⟩
theorem incZp (zp : Byte) : Statement (.incZp zp) := ⟨rfl, rfl⟩
theorem isbZp (zp : Byte) : Statement (.isbZp zp) := ⟨rfl, rfl⟩
theorem inx : Statement (.inx) := ⟨rfl, rfl⟩
theorem sbcImm (v : Byte) : Statement (.sbcImm v) := ⟨rfl, rfl⟩
theorem nop : Statement (.nop) := ⟨rfl, rfl⟩
theorem cpxAbs (a : Addr) : Statement (.cpxAbs a) := ⟨rfl, rfl⟩
theorem sbcAbs (a : Addr) : Statement (.sbcAbs a) := ⟨rfl, rfl⟩
theorem incAbs (a : Addr) : Statement (.incAbs a) := ⟨rfl, rfl⟩
theorem isbAbs (a : Addr) : Statement (.isbAbs a) := ⟨rfl, rfl⟩
theorem beq (d : Byte) : Statement (.beq d) := ⟨rfl, rfl⟩
theorem sbcIndY (p : Byte) : Statement (.sbcIndY p) := ⟨rfl, rfl⟩
theorem isbIndY (p : Byte) : Statement (.isbIndY p) := ⟨rfl, rfl⟩
theorem nopZpXF4 (zp : Byte) : Statement (.nopZpXF4 zp) := ⟨rfl, rfl⟩
theorem sbcZpX (zp : Byte) : Statement (.sbcZpX zp) := ⟨rfl, rfl⟩
theorem incZpX (zp : Byte) : Statement (.incZpX zp) := ⟨rfl, rfl⟩
theorem isbZpX (zp : Byte) : Statement (.isbZpX zp) := ⟨rfl, rfl⟩
theorem sed : Statement (.sed) := ⟨rfl, rfl⟩
theorem sbcAbsY (a : Addr) : Statement (.sbcAbsY a) := ⟨rfl, rfl⟩
theorem isbAbsY (a : Addr) : Statement (.isbAbsY a) := ⟨rfl, rfl⟩
theorem nopAbsXFC (a : Addr) : Statement (.nopAbsXFC a) := ⟨rfl, rfl⟩
theorem sbcAbsX (a : Addr) : Statement (.sbcAbsX a) := ⟨rfl, rfl⟩
theorem incAbsX (a : Addr) : Statement (.incAbsX a) := ⟨rfl, rfl⟩
theorem isbAbsX (a : Addr) : Statement (.isbAbsX a) := ⟨rfl, rfl⟩

end Sys2Proof.Laws.Written
end

