-- ==== Sys2Proof/Laws/Results.lean ====
section
/-! SUPPORT. What each shared microsequence does, said once: the registers, PC and trace it ends with, the bytes its reads
get from the platform, and the memory it leaves. The statements about instructions cite these and unfold nothing. -/

namespace Sys2Proof.Machine

open Sys2Proof.Safety

set_option linter.unusedSimpArgs false

theorem nextInPage_zeroPageAddr (b : Byte) : nextInPage (zeroPageAddr b) = zeroPageAddr (b + 1) := by
  simp [nextInPage, zeroPageAddr]

theorem lowByte_zeroPageAddr (b : Byte) : lowByte (zeroPageAddr b) = b := lowByte_addrOf _ _

/-- R90. -/
theorem runImplied_result (m : Mnemonic) (s : State) :
    ∃ t b0 b1, runImplied m s = .next t ∧
      Ended s t (impliedOp m s.regs) (s.pc + 1)
        [rd s.pc b0, rd (s.pc + 1) b1] ∧
      SameOutside [] s t := by
  obtain ⟨b0, hb0⟩ := exists_read s.platform s.mem s.bus s.pc
  obtain ⟨b1, hb1⟩ := exists_read s.platform s.mem (rd s.pc b0 :: s.bus) (s.pc + 1#16)
  refine ⟨_, b0, b1, rfl, ⟨?_, ?_, ?_, ?_, ?_, ?_, ?_⟩, ?_⟩
  all_goals simp +contextual [runImplied, runRows, cycleHappens, runCycle, cycleWrites, cycleAddr, cycleCommit, State.effective,
    State.busRead, opcodeAtPc, AtBoundary, SameOutside, stored, readByte_platformWrite, BitVec.add_assoc,
    hb0, hb1]

/-- R91. -/
theorem runImmediate_result (m : Mnemonic) (v : Byte) (s : State) :
    ∃ t b0 b1, runImmediate m v s = .next t ∧
      Ended s t (immOp m s.regs v) (s.pc + 2)
        [rd s.pc b0, rd (s.pc + 1) b1] ∧
      SameOutside [] s t := by
  obtain ⟨b0, hb0⟩ := exists_read s.platform s.mem s.bus s.pc
  obtain ⟨b1, hb1⟩ := exists_read s.platform s.mem (rd s.pc b0 :: s.bus) (s.pc + 1#16)
  refine ⟨_, b0, b1, rfl, ⟨?_, ?_, ?_, ?_, ?_, ?_, ?_⟩, ?_⟩
  all_goals simp +contextual [runImmediate, runRows, cycleHappens, runCycle, cycleWrites, cycleAddr, cycleCommit, State.effective,
    State.busRead, opcodeAtPc, AtBoundary, SameOutside, stored, readByte_platformWrite, BitVec.add_assoc,
    hb0, hb1]

/-- R96. -/
theorem absoluteRead_result (m : Mnemonic) (a : Addr) (s : State) :
    ∃ t b0 b1 b2 v, absoluteRead m a s = .next t ∧
      Ended s t (readOp m s.regs v) (s.pc + 3)
        [rd s.pc b0, rd (s.pc + 1) b1, rd (s.pc + 2) b2, rd a v] ∧
      SameOutside [] s t := by
  obtain ⟨b0, hb0⟩ := exists_read s.platform s.mem s.bus s.pc
  obtain ⟨b1, hb1⟩ := exists_read s.platform s.mem (rd s.pc b0 :: s.bus) (s.pc + 1#16)
  obtain ⟨b2, hb2⟩ := exists_read s.platform s.mem (rd (s.pc + 1#16) b1 :: rd s.pc b0 :: s.bus) (s.pc + 2#16)
  obtain ⟨v, hv⟩ := exists_read s.platform s.mem (rd (s.pc + 2#16) b2 :: rd (s.pc + 1#16) b1 :: rd s.pc b0 :: s.bus) a
  refine ⟨_, b0, b1, b2, v, rfl, ⟨?_, ?_, ?_, ?_, ?_, ?_, ?_⟩, ?_⟩
  all_goals simp +contextual [absoluteRead, absoluteRows, runRead, runRows, cycleHappens, runCycle, cycleWrites, cycleAddr,
    cycleCommit, State.effective,
    State.busRead, opcodeAtPc, AtBoundary, SameOutside, stored, readByte_platformWrite, BitVec.add_assoc,
    hb0, hb1, hb2, hv]

/-- R97. -/
theorem absoluteRmw_result (m : Mnemonic) (a : Addr) (s : State) :
    ∃ t b0 b1 b2 v, absoluteRmw m a s = .next t ∧
      Ended s t (rmwOp m s.regs v).1 (s.pc + 3)
        [rd s.pc b0, rd (s.pc + 1) b1, rd (s.pc + 2) b2, rd a v, wr a v, wr a (rmwOp m s.regs v).2] ∧
      readByte t.mem a = stored s a (rmwOp m s.regs v).2 ∧ SameOutside [a] s t := by
  obtain ⟨b0, hb0⟩ := exists_read s.platform s.mem s.bus s.pc
  obtain ⟨b1, hb1⟩ := exists_read s.platform s.mem (rd s.pc b0 :: s.bus) (s.pc + 1#16)
  obtain ⟨b2, hb2⟩ := exists_read s.platform s.mem (rd (s.pc + 1#16) b1 :: rd s.pc b0 :: s.bus) (s.pc + 2#16)
  obtain ⟨v, hv⟩ := exists_read s.platform s.mem (rd (s.pc + 2#16) b2 :: rd (s.pc + 1#16) b1 :: rd s.pc b0 :: s.bus) a
  refine ⟨_, b0, b1, b2, v, rfl, ⟨?_, ?_, ?_, ?_, ?_, ?_, ?_⟩, ?_⟩
  all_goals simp +contextual [absoluteRmw, absoluteRows, runPlain, runRows, cycleHappens, runCycle, cycleWrites, cycleAddr,
    cycleCommit, State.effective,
    State.busRead, opcodeAtPc, AtBoundary, SameOutside, stored, readByte_platformWrite, BitVec.add_assoc,
    hb0, hb1, hb2, hv]

/-- R98. -/
theorem absoluteWrite_result (m : Mnemonic) (a : Addr) (s : State) :
    ∃ t b0 b1 b2, absoluteWrite m a s = .next t ∧
      Ended s t s.regs (s.pc + 3)
        [rd s.pc b0, rd (s.pc + 1) b1, rd (s.pc + 2) b2, wr a (storeVal m s.regs none)] ∧
      readByte t.mem a = stored s a (storeVal m s.regs none) ∧ SameOutside [a] s t := by
  obtain ⟨b0, hb0⟩ := exists_read s.platform s.mem s.bus s.pc
  obtain ⟨b1, hb1⟩ := exists_read s.platform s.mem (rd s.pc b0 :: s.bus) (s.pc + 1#16)
  obtain ⟨b2, hb2⟩ := exists_read s.platform s.mem (rd (s.pc + 1#16) b1 :: rd s.pc b0 :: s.bus) (s.pc + 2#16)
  refine ⟨_, b0, b1, b2, rfl, ⟨?_, ?_, ?_, ?_, ?_, ?_, ?_⟩, ?_⟩
  all_goals simp +contextual [absoluteWrite, absoluteRows, runPlain, runRows, cycleHappens, runCycle, cycleWrites, cycleAddr,
    cycleCommit, State.effective,
    State.busRead, opcodeAtPc, AtBoundary, SameOutside, stored, readByte_platformWrite, BitVec.add_assoc,
    hb0, hb1, hb2]

/-- R100. -/
theorem zeroPageRead_result (m : Mnemonic) (zp : Byte) (s : State) :
    ∃ t b0 b1 v, zeroPageRead m zp s = .next t ∧
      Ended s t (readOp m s.regs v) (s.pc + 2)
        [rd s.pc b0, rd (s.pc + 1) b1, rd (addrOf 0x00 zp) v] ∧
      SameOutside [] s t := by
  obtain ⟨b0, hb0⟩ := exists_read s.platform s.mem s.bus s.pc
  obtain ⟨b1, hb1⟩ := exists_read s.platform s.mem (rd s.pc b0 :: s.bus) (s.pc + 1#16)
  obtain ⟨v, hv⟩ := exists_read s.platform s.mem (rd (s.pc + 1#16) b1 :: rd s.pc b0 :: s.bus) (addrOf 0#8 zp)
  refine ⟨_, b0, b1, v, rfl, ⟨?_, ?_, ?_, ?_, ?_, ?_, ?_⟩, ?_⟩
  all_goals simp +contextual [zeroPageRead, zeroPageRows, runRead, runRows, cycleHappens, runCycle, cycleWrites, cycleAddr,
    cycleCommit, State.effective,
    State.busRead, opcodeAtPc, AtBoundary, SameOutside, stored, readByte_platformWrite, BitVec.add_assoc,
    hb0, hb1, hv]

/-- R101. -/
theorem zeroPageRmw_result (m : Mnemonic) (zp : Byte) (s : State) :
    ∃ t b0 b1 v, zeroPageRmw m zp s = .next t ∧
      Ended s t (rmwOp m s.regs v).1 (s.pc + 2)
        [rd s.pc b0, rd (s.pc + 1) b1, rd (addrOf 0x00 zp) v, wr (addrOf 0x00 zp) v, wr (addrOf 0x00 zp) (rmwOp m s.regs v).2] ∧
      readByte t.mem (addrOf 0x00 zp) = stored s (addrOf 0x00 zp) (rmwOp m s.regs v).2 ∧ SameOutside [(addrOf 0x00 zp)] s t := by
  obtain ⟨b0, hb0⟩ := exists_read s.platform s.mem s.bus s.pc
  obtain ⟨b1, hb1⟩ := exists_read s.platform s.mem (rd s.pc b0 :: s.bus) (s.pc + 1#16)
  obtain ⟨v, hv⟩ := exists_read s.platform s.mem (rd (s.pc + 1#16) b1 :: rd s.pc b0 :: s.bus) (addrOf 0#8 zp)
  refine ⟨_, b0, b1, v, rfl, ⟨?_, ?_, ?_, ?_, ?_, ?_, ?_⟩, ?_⟩
  all_goals simp +contextual [zeroPageRmw, zeroPageRows, runPlain, runRows, cycleHappens, runCycle, cycleWrites, cycleAddr,
    cycleCommit, State.effective,
    State.busRead, opcodeAtPc, AtBoundary, SameOutside, stored, readByte_platformWrite, BitVec.add_assoc,
    hb0, hb1, hv]

/-- R102. -/
theorem zeroPageWrite_result (m : Mnemonic) (zp : Byte) (s : State) :
    ∃ t b0 b1, zeroPageWrite m zp s = .next t ∧
      Ended s t s.regs (s.pc + 2)
        [rd s.pc b0, rd (s.pc + 1) b1, wr (addrOf 0x00 zp) (storeVal m s.regs none)] ∧
      readByte t.mem (addrOf 0x00 zp) = stored s (addrOf 0x00 zp) (storeVal m s.regs none) ∧ SameOutside [(addrOf 0x00 zp)] s t
        := by
  obtain ⟨b0, hb0⟩ := exists_read s.platform s.mem s.bus s.pc
  obtain ⟨b1, hb1⟩ := exists_read s.platform s.mem (rd s.pc b0 :: s.bus) (s.pc + 1#16)
  refine ⟨_, b0, b1, rfl, ⟨?_, ?_, ?_, ?_, ?_, ?_, ?_⟩, ?_⟩
  all_goals simp +contextual [zeroPageWrite, zeroPageRows, runPlain, runRows, cycleHappens, runCycle, cycleWrites, cycleAddr,
    cycleCommit, State.effective,
    State.busRead, opcodeAtPc, AtBoundary, SameOutside, stored, readByte_platformWrite, BitVec.add_assoc,
    hb0, hb1]

/-- R103. -/
theorem zeroPageIndexedRead_result (m : Mnemonic) (i : Index) (zp : Byte) (s : State) :
    ∃ t b0 b1 b2 v, zeroPageIndexedRead m i zp s = .next t ∧
      Ended s t (readOp m s.regs v) (s.pc + 2)
        [rd s.pc b0, rd (s.pc + 1) b1, rd (addrOf 0x00 zp) b2, rd (addrOf 0x00 (zp + indexValue i s.regs)) v] ∧
      SameOutside [] s t := by
  obtain ⟨b0, hb0⟩ := exists_read s.platform s.mem s.bus s.pc
  obtain ⟨b1, hb1⟩ := exists_read s.platform s.mem (rd s.pc b0 :: s.bus) (s.pc + 1#16)
  obtain ⟨b2, hb2⟩ := exists_read s.platform s.mem (rd (s.pc + 1#16) b1 :: rd s.pc b0 :: s.bus) (addrOf 0#8 zp)
  obtain ⟨v, hv⟩ := exists_read s.platform s.mem (rd (addrOf 0#8 zp) b2 :: rd (s.pc + 1#16) b1 :: rd s.pc b0 :: s.bus) (addrOf
    0#8 (zp + indexValue i s.regs))
  refine ⟨_, b0, b1, b2, v, rfl, ⟨?_, ?_, ?_, ?_, ?_, ?_, ?_⟩, ?_⟩
  all_goals simp +contextual [zeroPageIndexedRead, zeroPageIndexedRows, runRead, runRows, cycleHappens, runCycle, cycleWrites,
    cycleAddr, cycleCommit, State.effective,
    State.busRead, opcodeAtPc, AtBoundary, SameOutside, stored, readByte_platformWrite, BitVec.add_assoc,
    hb0, hb1, hb2, hv]

/-- R104. -/
theorem zeroPageIndexedRmw_result (m : Mnemonic) (i : Index) (zp : Byte) (s : State) :
    ∃ t b0 b1 b2 v, zeroPageIndexedRmw m i zp s = .next t ∧
      Ended s t (rmwOp m s.regs v).1 (s.pc + 2)
        [rd s.pc b0, rd (s.pc + 1) b1, rd (addrOf 0x00 zp) b2, rd (addrOf 0x00 (zp + indexValue i s.regs)) v,
          wr (addrOf 0x00 (zp + indexValue i s.regs)) v, wr (addrOf 0x00 (zp + indexValue i s.regs)) (rmwOp m s.regs v).2] ∧
      readByte t.mem (addrOf 0x00 (zp + indexValue i s.regs)) = stored s (addrOf 0x00 (zp + indexValue i s.regs)) (rmwOp m
        s.regs v).2 ∧ SameOutside [(addrOf 0x00 (zp + indexValue i s.regs))] s t := by
  obtain ⟨b0, hb0⟩ := exists_read s.platform s.mem s.bus s.pc
  obtain ⟨b1, hb1⟩ := exists_read s.platform s.mem (rd s.pc b0 :: s.bus) (s.pc + 1#16)
  obtain ⟨b2, hb2⟩ := exists_read s.platform s.mem (rd (s.pc + 1#16) b1 :: rd s.pc b0 :: s.bus) (addrOf 0#8 zp)
  obtain ⟨v, hv⟩ := exists_read s.platform s.mem (rd (addrOf 0#8 zp) b2 :: rd (s.pc + 1#16) b1 :: rd s.pc b0 :: s.bus) (addrOf
    0#8 (zp + indexValue i s.regs))
  refine ⟨_, b0, b1, b2, v, rfl, ⟨?_, ?_, ?_, ?_, ?_, ?_, ?_⟩, ?_⟩
  all_goals simp +contextual [zeroPageIndexedRmw, zeroPageIndexedRows, runPlain, runRows, cycleHappens, runCycle, cycleWrites,
    cycleAddr, cycleCommit, State.effective,
    State.busRead, opcodeAtPc, AtBoundary, SameOutside, stored, readByte_platformWrite, BitVec.add_assoc,
    hb0, hb1, hb2, hv]

/-- R105. -/
theorem zeroPageIndexedWrite_result (m : Mnemonic) (i : Index) (zp : Byte) (s : State) :
    ∃ t b0 b1 b2, zeroPageIndexedWrite m i zp s = .next t ∧
      Ended s t s.regs (s.pc + 2)
        [rd s.pc b0, rd (s.pc + 1) b1, rd (addrOf 0x00 zp) b2,
          wr (addrOf 0x00 (zp + indexValue i s.regs)) (storeVal m s.regs none)] ∧
      readByte t.mem (addrOf 0x00 (zp + indexValue i s.regs)) = stored s (addrOf 0x00 (zp + indexValue i s.regs)) (storeVal m
        s.regs none) ∧ SameOutside [(addrOf 0x00 (zp + indexValue i s.regs))] s t := by
  obtain ⟨b0, hb0⟩ := exists_read s.platform s.mem s.bus s.pc
  obtain ⟨b1, hb1⟩ := exists_read s.platform s.mem (rd s.pc b0 :: s.bus) (s.pc + 1#16)
  obtain ⟨b2, hb2⟩ := exists_read s.platform s.mem (rd (s.pc + 1#16) b1 :: rd s.pc b0 :: s.bus) (addrOf 0#8 zp)
  refine ⟨_, b0, b1, b2, rfl, ⟨?_, ?_, ?_, ?_, ?_, ?_, ?_⟩, ?_⟩
  all_goals simp +contextual [zeroPageIndexedWrite, zeroPageIndexedRows, runPlain, runRows, cycleHappens, runCycle,
    cycleWrites, cycleAddr, cycleCommit, State.effective,
    State.busRead, opcodeAtPc, AtBoundary, SameOutside, stored, readByte_platformWrite, BitVec.add_assoc,
    hb0, hb1, hb2]

/-- R121, with the address of R120. -/
theorem indexedIndirectRead_result (m : Mnemonic) (p : Byte) (s : State) :
    ∃ t b0 b1 b2 lo hi v, indexedIndirectRead m p s = .next t ∧
      Ended s t (readOp m s.regs v) (s.pc + 2)
        [rd s.pc b0, rd (s.pc + 1) b1, rd (zeroPageAddr p) b2, rd (zeroPageAddr (p + s.regs.x)) lo,
          rd (zeroPageAddr (p + s.regs.x + 1)) hi, rd (addrOf hi lo) v] ∧
      SameOutside [] s t := by
  obtain ⟨b0, hb0⟩ := exists_read s.platform s.mem s.bus s.pc
  obtain ⟨b1, hb1⟩ := exists_read s.platform s.mem (rd s.pc b0 :: s.bus) (s.pc + 1#16)
  obtain ⟨b2, hb2⟩ := exists_read s.platform s.mem (rd (s.pc + 1#16) b1 :: rd s.pc b0 :: s.bus) (zeroPageAddr p)
  obtain ⟨lo, hlo⟩ := exists_read s.platform s.mem (rd (zeroPageAddr p) b2 :: rd (s.pc + 1#16) b1 :: rd s.pc b0 :: s.bus)
    (zeroPageAddr (p + s.regs.x))
  obtain ⟨hi, hhi⟩ := exists_read s.platform s.mem (rd (zeroPageAddr (p + s.regs.x)) lo :: rd (zeroPageAddr p) b2 :: rd (s.pc +
    1#16) b1 :: rd s.pc b0 :: s.bus) (zeroPageAddr (p + (s.regs.x + 1#8)))
  obtain ⟨v, hv⟩ := exists_read s.platform s.mem (rd (zeroPageAddr (p + (s.regs.x + 1#8))) hi :: rd (zeroPageAddr (p +
    s.regs.x)) lo :: rd (zeroPageAddr p) b2 :: rd (s.pc + 1#16) b1 :: rd s.pc b0 :: s.bus) (addrOf hi lo)
  refine ⟨_, b0, b1, b2, lo, hi, v, rfl, ⟨?_, ?_, ?_, ?_, ?_, ?_, ?_⟩, ?_⟩
  all_goals simp +contextual [indexedIndirectRead, indexedIndirectRows, lowByte_zeroPageAddr, nextInPage_zeroPageAddr, runRead,
    runRows, cycleHappens, runCycle, cycleWrites, cycleAddr, cycleCommit, State.effective,
    State.busRead, opcodeAtPc, AtBoundary, SameOutside, stored, readByte_platformWrite, BitVec.add_assoc,
    hb0, hb1, hb2, hlo, hhi, hv]

/-- R122, with the address of R120. -/
theorem indexedIndirectRmw_result (m : Mnemonic) (p : Byte) (s : State) :
    ∃ t b0 b1 b2 lo hi v, indexedIndirectRmw m p s = .next t ∧
      Ended s t (rmwOp m s.regs v).1 (s.pc + 2)
        [rd s.pc b0, rd (s.pc + 1) b1, rd (zeroPageAddr p) b2, rd (zeroPageAddr (p + s.regs.x)) lo,
          rd (zeroPageAddr (p + s.regs.x + 1)) hi, rd (addrOf hi lo) v, wr (addrOf hi lo) v,
          wr (addrOf hi lo) (rmwOp m s.regs v).2] ∧
      readByte t.mem (addrOf hi lo) = stored s (addrOf hi lo) (rmwOp m s.regs v).2 ∧ SameOutside [(addrOf hi lo)] s t := by
  obtain ⟨b0, hb0⟩ := exists_read s.platform s.mem s.bus s.pc
  obtain ⟨b1, hb1⟩ := exists_read s.platform s.mem (rd s.pc b0 :: s.bus) (s.pc + 1#16)
  obtain ⟨b2, hb2⟩ := exists_read s.platform s.mem (rd (s.pc + 1#16) b1 :: rd s.pc b0 :: s.bus) (zeroPageAddr p)
  obtain ⟨lo, hlo⟩ := exists_read s.platform s.mem (rd (zeroPageAddr p) b2 :: rd (s.pc + 1#16) b1 :: rd s.pc b0 :: s.bus)
    (zeroPageAddr (p + s.regs.x))
  obtain ⟨hi, hhi⟩ := exists_read s.platform s.mem (rd (zeroPageAddr (p + s.regs.x)) lo :: rd (zeroPageAddr p) b2 :: rd (s.pc +
    1#16) b1 :: rd s.pc b0 :: s.bus) (zeroPageAddr (p + (s.regs.x + 1#8)))
  obtain ⟨v, hv⟩ := exists_read s.platform s.mem (rd (zeroPageAddr (p + (s.regs.x + 1#8))) hi :: rd (zeroPageAddr (p +
    s.regs.x)) lo :: rd (zeroPageAddr p) b2 :: rd (s.pc + 1#16) b1 :: rd s.pc b0 :: s.bus) (addrOf hi lo)
  refine ⟨_, b0, b1, b2, lo, hi, v, rfl, ⟨?_, ?_, ?_, ?_, ?_, ?_, ?_⟩, ?_⟩
  all_goals simp +contextual [indexedIndirectRmw, indexedIndirectRows, lowByte_zeroPageAddr, nextInPage_zeroPageAddr, runPlain,
    runRows, cycleHappens, runCycle, cycleWrites, cycleAddr, cycleCommit, State.effective,
    State.busRead, opcodeAtPc, AtBoundary, SameOutside, stored, readByte_platformWrite, BitVec.add_assoc,
    hb0, hb1, hb2, hlo, hhi, hv]

/-- R123, with the address of R120. -/
theorem indexedIndirectWrite_result (m : Mnemonic) (p : Byte) (s : State) :
    ∃ t b0 b1 b2 lo hi, indexedIndirectWrite m p s = .next t ∧
      Ended s t s.regs (s.pc + 2)
        [rd s.pc b0, rd (s.pc + 1) b1, rd (zeroPageAddr p) b2, rd (zeroPageAddr (p + s.regs.x)) lo,
          rd (zeroPageAddr (p + s.regs.x + 1)) hi, wr (addrOf hi lo) (storeVal m s.regs none)] ∧
      readByte t.mem (addrOf hi lo) = stored s (addrOf hi lo) (storeVal m s.regs none) ∧ SameOutside [(addrOf hi lo)] s t := by
  obtain ⟨b0, hb0⟩ := exists_read s.platform s.mem s.bus s.pc
  obtain ⟨b1, hb1⟩ := exists_read s.platform s.mem (rd s.pc b0 :: s.bus) (s.pc + 1#16)
  obtain ⟨b2, hb2⟩ := exists_read s.platform s.mem (rd (s.pc + 1#16) b1 :: rd s.pc b0 :: s.bus) (zeroPageAddr p)
  obtain ⟨lo, hlo⟩ := exists_read s.platform s.mem (rd (zeroPageAddr p) b2 :: rd (s.pc + 1#16) b1 :: rd s.pc b0 :: s.bus)
    (zeroPageAddr (p + s.regs.x))
  obtain ⟨hi, hhi⟩ := exists_read s.platform s.mem (rd (zeroPageAddr (p + s.regs.x)) lo :: rd (zeroPageAddr p) b2 :: rd (s.pc +
    1#16) b1 :: rd s.pc b0 :: s.bus) (zeroPageAddr (p + (s.regs.x + 1#8)))
  refine ⟨_, b0, b1, b2, lo, hi, rfl, ⟨?_, ?_, ?_, ?_, ?_, ?_, ?_⟩, ?_⟩
  all_goals simp +contextual [indexedIndirectWrite, indexedIndirectRows, lowByte_zeroPageAddr, nextInPage_zeroPageAddr,
    runPlain, runRows, cycleHappens, runCycle, cycleWrites, cycleAddr, cycleCommit, State.effective,
    State.busRead, opcodeAtPc, AtBoundary, SameOutside, stored, readByte_platformWrite, BitVec.add_assoc,
    hb0, hb1, hb2, hlo, hhi]

/-- R111, with the addresses of R110. -/
theorem absoluteIndexedRead_result (m : Mnemonic) (i : Index) (a : Addr) (s : State) :
    ∃ t b0 b1 b2 w v, absoluteIndexedRead m i a s = .next t ∧
      Ended s t (readOp m s.regs v) (s.pc + 3)
        ([rd s.pc b0, rd (s.pc + 1) b1, rd (s.pc + 2) b2] ++
          (if 256 ≤ (lowByte a).toNat + (indexValue i s.regs).toNat then [rd (addrOf (highByte a) ((lowByte a) + (indexValue i
          s.regs))) w] else []) ++
          [rd (a + zext16 (indexValue i s.regs)) v]) ∧
      SameOutside [] s t := by
  obtain ⟨b0, hb0⟩ := exists_read s.platform s.mem s.bus s.pc
  obtain ⟨b1, hb1⟩ := exists_read s.platform s.mem (rd s.pc b0 :: s.bus) (s.pc + 1#16)
  obtain ⟨b2, hb2⟩ := exists_read s.platform s.mem (rd (s.pc + 1#16) b1 :: rd s.pc b0 :: s.bus) (s.pc + 2#16)
  have hsum := indexed_address_is_sum (highByte a) (lowByte a) (indexValue i s.regs)
  rw [addrOf_high_low] at hsum
  by_cases hc : 256 ≤ (lowByte a).toNat + (indexValue i s.regs).toNat
  · have hc' : addCarry (lowByte a) (indexValue i s.regs) = true := by simp [addCarry, hc]
    rw [hc'] at hsum
    obtain ⟨w, hw⟩ := exists_read s.platform s.mem (rd (s.pc + 2#16) b2 :: rd (s.pc + 1#16) b1 :: rd s.pc b0 :: s.bus) (addrOf
      (highByte a) ((lowByte a) + (indexValue i s.regs)))
    obtain ⟨v, hv⟩ := exists_read s.platform s.mem (rd (addrOf (highByte a) ((lowByte a) + (indexValue i s.regs))) w :: rd
      (s.pc + 2#16) b2 :: rd (s.pc + 1#16) b1 :: rd s.pc b0 :: s.bus) (a + zext16 (indexValue i s.regs))
    refine ⟨_, b0, b1, b2, w, v, rfl, ⟨?_, ?_, ?_, ?_, ?_, ?_, ?_⟩, ?_⟩
    all_goals simp [absoluteIndexedRead, absoluteIndexedRows, runRead, runRows, cycleHappens, runCycle, cycleWrites, cycleAddr,
      cycleCommit, State.effective,
    State.busRead, opcodeAtPc, AtBoundary, SameOutside, stored, readByte_platformWrite, BitVec.add_assoc,
      hb0, hb1, hb2, hw, hv, hc, hc', hsum]
  · have hc' : addCarry (lowByte a) (indexValue i s.regs) = false := by simp [addCarry, hc]
    have hearly := early_address_without_carry (highByte a) (lowByte a) (indexValue i s.regs) hc'
    rw [addrOf_high_low] at hearly
    obtain ⟨v, hv⟩ := exists_read s.platform s.mem (rd (s.pc + 2#16) b2 :: rd (s.pc + 1#16) b1 :: rd s.pc b0 :: s.bus) (addrOf
      (highByte a) ((lowByte a) + (indexValue i s.regs)))
    refine ⟨_, b0, b1, b2, 0, v, rfl, ⟨?_, ?_, ?_, ?_, ?_, ?_, ?_⟩, ?_⟩
    all_goals simp [absoluteIndexedRead, absoluteIndexedRows, runRead, runRows, cycleHappens, runCycle, cycleWrites, cycleAddr,
      cycleCommit, State.effective,
    State.busRead, opcodeAtPc, AtBoundary, SameOutside, stored, readByte_platformWrite, BitVec.add_assoc,
      hb0, hb1, hb2, hv, hc, hc', ← hearly]

/-- R112, with the addresses of R110. -/
theorem absoluteIndexedRmw_result (m : Mnemonic) (i : Index) (a : Addr) (s : State) :
    ∃ t b0 b1 b2 w v, absoluteIndexedRmw m i a s = .next t ∧
      Ended s t (rmwOp m s.regs v).1 (s.pc + 3)
        [rd s.pc b0, rd (s.pc + 1) b1, rd (s.pc + 2) b2, rd (addrOf (highByte a) ((lowByte a) + (indexValue i s.regs))) w,
          rd (a + zext16 (indexValue i s.regs)) v, wr (a + zext16 (indexValue i s.regs)) v,
          wr (a + zext16 (indexValue i s.regs)) (rmwOp m s.regs v).2] ∧
      readByte t.mem (a + zext16 (indexValue i s.regs)) = stored s (a + zext16 (indexValue i s.regs)) (rmwOp m s.regs v).2 ∧
        SameOutside [(a + zext16 (indexValue i s.regs))] s t := by
  obtain ⟨b0, hb0⟩ := exists_read s.platform s.mem s.bus s.pc
  obtain ⟨b1, hb1⟩ := exists_read s.platform s.mem (rd s.pc b0 :: s.bus) (s.pc + 1#16)
  obtain ⟨b2, hb2⟩ := exists_read s.platform s.mem (rd (s.pc + 1#16) b1 :: rd s.pc b0 :: s.bus) (s.pc + 2#16)
  obtain ⟨w, hw⟩ := exists_read s.platform s.mem (rd (s.pc + 2#16) b2 :: rd (s.pc + 1#16) b1 :: rd s.pc b0 :: s.bus) (addrOf
    (highByte a) ((lowByte a) + (indexValue i s.regs)))
  obtain ⟨v, hv⟩ := exists_read s.platform s.mem (rd (addrOf (highByte a) ((lowByte a) + (indexValue i s.regs))) w :: rd (s.pc
    + 2#16) b2 :: rd (s.pc + 1#16) b1 :: rd s.pc b0 :: s.bus) (a + zext16 (indexValue i s.regs))
  have hsum := indexed_address_is_sum (highByte a) (lowByte a) (indexValue i s.regs)
  rw [addrOf_high_low] at hsum
  refine ⟨_, b0, b1, b2, w, v, rfl, ⟨?_, ?_, ?_, ?_, ?_, ?_, ?_⟩, ?_⟩
  all_goals simp +contextual [absoluteIndexedRmw, absoluteIndexedRows, runPlain, runRows, cycleHappens, runCycle, cycleWrites,
    cycleAddr, cycleCommit, State.effective,
    State.busRead, opcodeAtPc, AtBoundary, SameOutside, stored, readByte_platformWrite, BitVec.add_assoc,
    hb0, hb1, hb2, hw, hv, hsum, unfixHigh_fixHigh]

/-- R113, with the addresses of R110. -/
theorem absoluteIndexedWrite_result (m : Mnemonic) (i : Index) (a : Addr) (s : State) :
    ∃ t b0 b1 b2 w, absoluteIndexedWrite m i a s = .next t ∧
      Ended s t s.regs (s.pc + 3)
        [rd s.pc b0, rd (s.pc + 1) b1, rd (s.pc + 2) b2, rd (addrOf (highByte a) ((lowByte a) + (indexValue i s.regs))) w,
          wr (a + zext16 (indexValue i s.regs)) (storeVal m s.regs (some (highByte a, addCarry (lowByte a) (indexValue i
          s.regs))))] ∧
      readByte t.mem (a + zext16 (indexValue i s.regs)) = stored s (a + zext16 (indexValue i s.regs)) (storeVal m s.regs (some
        (highByte a, addCarry (lowByte a) (indexValue i s.regs)))) ∧ SameOutside [(a + zext16 (indexValue i s.regs))] s t := by
  obtain ⟨b0, hb0⟩ := exists_read s.platform s.mem s.bus s.pc
  obtain ⟨b1, hb1⟩ := exists_read s.platform s.mem (rd s.pc b0 :: s.bus) (s.pc + 1#16)
  obtain ⟨b2, hb2⟩ := exists_read s.platform s.mem (rd (s.pc + 1#16) b1 :: rd s.pc b0 :: s.bus) (s.pc + 2#16)
  obtain ⟨w, hw⟩ := exists_read s.platform s.mem (rd (s.pc + 2#16) b2 :: rd (s.pc + 1#16) b1 :: rd s.pc b0 :: s.bus) (addrOf
    (highByte a) ((lowByte a) + (indexValue i s.regs)))
  have hsum := indexed_address_is_sum (highByte a) (lowByte a) (indexValue i s.regs)
  rw [addrOf_high_low] at hsum
  refine ⟨_, b0, b1, b2, w, rfl, ⟨?_, ?_, ?_, ?_, ?_, ?_, ?_⟩, ?_⟩
  all_goals simp +contextual [absoluteIndexedWrite, absoluteIndexedRows, runPlain, runRows, cycleHappens, runCycle,
    cycleWrites, cycleAddr, cycleCommit, State.effective,
    State.busRead, opcodeAtPc, AtBoundary, SameOutside, stored, readByte_platformWrite, BitVec.add_assoc,
    hb0, hb1, hb2, hw, hsum, unfixHigh_fixHigh]

/-- R125, with the addresses of R124. -/
theorem indirectIndexedRead_result (m : Mnemonic) (p : Byte) (s : State) :
    ∃ t b0 b1 lo hi w v, indirectIndexedRead m p s = .next t ∧
      Ended s t (readOp m s.regs v) (s.pc + 2)
        ([rd s.pc b0, rd (s.pc + 1) b1, rd (zeroPageAddr p) lo, rd (zeroPageAddr (p + 1)) hi] ++
          (if 256 ≤ lo.toNat + s.regs.y.toNat then [rd (addrOf hi (lo + s.regs.y)) w] else []) ++
          [rd (addrOf hi lo + zext16 s.regs.y) v]) ∧
      SameOutside [] s t := by
  obtain ⟨b0, hb0⟩ := exists_read s.platform s.mem s.bus s.pc
  obtain ⟨b1, hb1⟩ := exists_read s.platform s.mem (rd s.pc b0 :: s.bus) (s.pc + 1#16)
  obtain ⟨lo, hlo⟩ := exists_read s.platform s.mem (rd (s.pc + 1#16) b1 :: rd s.pc b0 :: s.bus) (zeroPageAddr p)
  obtain ⟨hi, hhi⟩ := exists_read s.platform s.mem (rd (zeroPageAddr p) lo :: rd (s.pc + 1#16) b1 :: rd s.pc b0 :: s.bus)
    (zeroPageAddr (p + 1#8))
  have hsum := indexed_address_is_sum hi lo s.regs.y
  by_cases hc : 256 ≤ lo.toNat + s.regs.y.toNat
  · have hc' : addCarry lo s.regs.y = true := by simp [addCarry, hc]
    rw [hc'] at hsum
    obtain ⟨w, hw⟩ := exists_read s.platform s.mem (rd (zeroPageAddr (p + 1#8)) hi :: rd (zeroPageAddr p) lo :: rd (s.pc +
      1#16) b1 :: rd s.pc b0 :: s.bus) (addrOf hi (lo + s.regs.y))
    obtain ⟨v, hv⟩ := exists_read s.platform s.mem (rd (addrOf hi (lo + s.regs.y)) w :: rd (zeroPageAddr (p + 1#8)) hi :: rd
      (zeroPageAddr p) lo :: rd (s.pc + 1#16) b1 :: rd s.pc b0 :: s.bus) (addrOf hi lo + zext16 s.regs.y)
    refine ⟨_, b0, b1, lo, hi, w, v, rfl, ⟨?_, ?_, ?_, ?_, ?_, ?_, ?_⟩, ?_⟩
    all_goals simp [indirectIndexedRead, indirectIndexedRows, nextInPage_zeroPageAddr, runRead, runRows, cycleHappens,
      runCycle, cycleWrites, cycleAddr, cycleCommit, State.effective,
    State.busRead, opcodeAtPc, AtBoundary, SameOutside, stored, readByte_platformWrite, BitVec.add_assoc,
      hb0, hb1, hlo, hhi, hw, hv, hc, hc', hsum]
  · have hc' : addCarry lo s.regs.y = false := by simp [addCarry, hc]
    have hearly := early_address_without_carry hi lo s.regs.y hc'
    obtain ⟨v, hv⟩ := exists_read s.platform s.mem (rd (zeroPageAddr (p + 1#8)) hi :: rd (zeroPageAddr p) lo :: rd (s.pc +
      1#16) b1 :: rd s.pc b0 :: s.bus) (addrOf hi (lo + s.regs.y))
    refine ⟨_, b0, b1, lo, hi, 0, v, rfl, ⟨?_, ?_, ?_, ?_, ?_, ?_, ?_⟩, ?_⟩
    all_goals simp [indirectIndexedRead, indirectIndexedRows, nextInPage_zeroPageAddr, runRead, runRows, cycleHappens,
      runCycle, cycleWrites, cycleAddr, cycleCommit, State.effective,
    State.busRead, opcodeAtPc, AtBoundary, SameOutside, stored, readByte_platformWrite, BitVec.add_assoc,
      hb0, hb1, hlo, hhi, hv, hc, hc', ← hearly]

/-- R126, with the addresses of R124. -/
theorem indirectIndexedRmw_result (m : Mnemonic) (p : Byte) (s : State) :
    ∃ t b0 b1 lo hi w v, indirectIndexedRmw m p s = .next t ∧
      Ended s t (rmwOp m s.regs v).1 (s.pc + 2)
        [rd s.pc b0, rd (s.pc + 1) b1, rd (zeroPageAddr p) lo, rd (zeroPageAddr (p + 1)) hi,
          rd (addrOf hi (lo + s.regs.y)) w, rd (addrOf hi lo + zext16 s.regs.y) v, wr (addrOf hi lo + zext16 s.regs.y) v,
          wr (addrOf hi lo + zext16 s.regs.y) (rmwOp m s.regs v).2] ∧
      readByte t.mem (addrOf hi lo + zext16 s.regs.y) = stored s (addrOf hi lo + zext16 s.regs.y) (rmwOp m s.regs v).2 ∧
        SameOutside [(addrOf hi lo + zext16 s.regs.y)] s t := by
  obtain ⟨b0, hb0⟩ := exists_read s.platform s.mem s.bus s.pc
  obtain ⟨b1, hb1⟩ := exists_read s.platform s.mem (rd s.pc b0 :: s.bus) (s.pc + 1#16)
  obtain ⟨lo, hlo⟩ := exists_read s.platform s.mem (rd (s.pc + 1#16) b1 :: rd s.pc b0 :: s.bus) (zeroPageAddr p)
  obtain ⟨hi, hhi⟩ := exists_read s.platform s.mem (rd (zeroPageAddr p) lo :: rd (s.pc + 1#16) b1 :: rd s.pc b0 :: s.bus)
    (zeroPageAddr (p + 1#8))
  obtain ⟨w, hw⟩ := exists_read s.platform s.mem (rd (zeroPageAddr (p + 1#8)) hi :: rd (zeroPageAddr p) lo :: rd (s.pc + 1#16)
    b1 :: rd s.pc b0 :: s.bus) (addrOf hi (lo + s.regs.y))
  obtain ⟨v, hv⟩ := exists_read s.platform s.mem (rd (addrOf hi (lo + s.regs.y)) w :: rd (zeroPageAddr (p + 1#8)) hi :: rd
    (zeroPageAddr p) lo :: rd (s.pc + 1#16) b1 :: rd s.pc b0 :: s.bus) (addrOf hi lo + zext16 s.regs.y)
  have hsum := indexed_address_is_sum hi lo s.regs.y
  refine ⟨_, b0, b1, lo, hi, w, v, rfl, ⟨?_, ?_, ?_, ?_, ?_, ?_, ?_⟩, ?_⟩
  all_goals simp +contextual [indirectIndexedRmw, indirectIndexedRows, nextInPage_zeroPageAddr, runPlain, runRows,
    cycleHappens, runCycle, cycleWrites, cycleAddr, cycleCommit, State.effective,
    State.busRead, opcodeAtPc, AtBoundary, SameOutside, stored, readByte_platformWrite, BitVec.add_assoc,
    hb0, hb1, hlo, hhi, hw, hv, hsum, unfixHigh_fixHigh]

/-- R127, with the addresses of R124. -/
theorem indirectIndexedWrite_result (m : Mnemonic) (p : Byte) (s : State) :
    ∃ t b0 b1 lo hi w, indirectIndexedWrite m p s = .next t ∧
      Ended s t s.regs (s.pc + 2)
        [rd s.pc b0, rd (s.pc + 1) b1, rd (zeroPageAddr p) lo, rd (zeroPageAddr (p + 1)) hi,
          rd (addrOf hi (lo + s.regs.y)) w,
          wr (addrOf hi lo + zext16 s.regs.y) (storeVal m s.regs (some (hi, addCarry lo s.regs.y)))] ∧
      readByte t.mem (addrOf hi lo + zext16 s.regs.y) = stored s (addrOf hi lo + zext16 s.regs.y) (storeVal m s.regs (some (hi,
        addCarry lo s.regs.y))) ∧ SameOutside [(addrOf hi lo + zext16 s.regs.y)] s t := by
  obtain ⟨b0, hb0⟩ := exists_read s.platform s.mem s.bus s.pc
  obtain ⟨b1, hb1⟩ := exists_read s.platform s.mem (rd s.pc b0 :: s.bus) (s.pc + 1#16)
  obtain ⟨lo, hlo⟩ := exists_read s.platform s.mem (rd (s.pc + 1#16) b1 :: rd s.pc b0 :: s.bus) (zeroPageAddr p)
  obtain ⟨hi, hhi⟩ := exists_read s.platform s.mem (rd (zeroPageAddr p) lo :: rd (s.pc + 1#16) b1 :: rd s.pc b0 :: s.bus)
    (zeroPageAddr (p + 1#8))
  obtain ⟨w, hw⟩ := exists_read s.platform s.mem (rd (zeroPageAddr (p + 1#8)) hi :: rd (zeroPageAddr p) lo :: rd (s.pc + 1#16)
    b1 :: rd s.pc b0 :: s.bus) (addrOf hi (lo + s.regs.y))
  have hsum := indexed_address_is_sum hi lo s.regs.y
  refine ⟨_, b0, b1, lo, hi, w, rfl, ⟨?_, ?_, ?_, ?_, ?_, ?_, ?_⟩, ?_⟩
  all_goals simp +contextual [indirectIndexedWrite, indirectIndexedRows, nextInPage_zeroPageAddr, runPlain, runRows,
    cycleHappens, runCycle, cycleWrites, cycleAddr, cycleCommit, State.effective,
    State.busRead, opcodeAtPc, AtBoundary, SameOutside, stored, readByte_platformWrite, BitVec.add_assoc,
    hb0, hb1, hlo, hhi, hw, hsum, unfixHigh_fixHigh]

/-- R115: the accesses and the end of a branch. -/
theorem branch_result (b : Branch) (d : Byte) (s : State) :
    let pn := s.pc + 2
    let target := pn + sext16 d
    ∃ t b0 b1 b2 b3, branch b d s = .next t ∧
      Ended s t s.regs (if taken b s.regs.p then target else pn)
        ([rd s.pc b0, rd (s.pc + 1) b1] ++
          if taken b s.regs.p then
            rd pn b2 :: if highByte target = highByte pn then [] else [rd (addrOf (highByte pn) (lowByte target)) b3]
          else []) ∧
      SameOutside [] s t := by
  intro pn target
  obtain ⟨b0, hb0⟩ := exists_read s.platform s.mem s.bus s.pc
  obtain ⟨b1, hb1⟩ := exists_read s.platform s.mem (rd s.pc b0 :: s.bus) (s.pc + 1#16)
  obtain ⟨b2, hb2⟩ := exists_read s.platform s.mem (rd (s.pc + 1#16) b1 :: rd s.pc b0 :: s.bus) (s.pc + 2#16)
  by_cases ht : taken b s.regs.p = true
  · cases hc : branchCrosses (lowByte pn) d
    · have hp : highByte target = highByte pn := by
        by_contra hne
        rw [(branchCrosses_iff pn d).2 hne] at hc
        cases hc
      have he := branch_target_same_page pn d hc
      refine ⟨_, b0, b1, b2, 0, rfl, ⟨?_, ?_, ?_, ?_, ?_, ?_, ?_⟩, ?_⟩
      all_goals simp [BitVec.add_assoc, pn, target] at ht hp he hc ⊢
      all_goals simp [branch, runPlain, runRows, cycleHappens, runCycle, cycleWrites, cycleAddr, cycleCommit, State.effective,
    State.busRead, opcodeAtPc, AtBoundary, SameOutside, stored, readByte_platformWrite, BitVec.add_assoc, Temps.dead, hb0, hb1,
    hb2, ht, hp, he, hc]
    · have hp : highByte target ≠ highByte pn := (branchCrosses_iff pn d).1 hc
      have he := branch_target_crossing pn d hc
      have hl := lowByte_branch_target pn d
      simp only [BitVec.add_assoc, pn, target] at hp he hc hl
      obtain ⟨b3, hb3⟩ := exists_read s.platform s.mem (rd (s.pc + 2#16) b2 :: rd (s.pc + 1#16) b1 :: rd s.pc b0 :: s.bus)
        (addrOf (highByte (s.pc + 2#16)) (lowByte (s.pc + 2#16) + d))
      refine ⟨_, b0, b1, b2, b3, rfl, ⟨?_, ?_, ?_, ?_, ?_, ?_, ?_⟩, ?_⟩
      all_goals simp [BitVec.add_assoc, pn, target] at ht hp he hc hl hb3 ⊢
      all_goals simp [branch, runPlain, runRows, cycleHappens, runCycle, cycleWrites, cycleAddr, cycleCommit, State.effective,
    State.busRead, opcodeAtPc, AtBoundary, SameOutside, stored, readByte_platformWrite, BitVec.add_assoc, Temps.dead, hb0, hb1,
    hb2, hb3, ht, hp, he, hc, hl]
  · refine ⟨_, b0, b1, 0, 0, rfl, ⟨?_, ?_, ?_, ?_, ?_, ?_, ?_⟩, ?_⟩
    all_goals simp [BitVec.add_assoc, pn, target] at ht ⊢
    all_goals simp [branch, runPlain, runRows, cycleHappens, runCycle, cycleWrites, cycleAddr, cycleCommit, State.effective,
    State.busRead, opcodeAtPc, AtBoundary, SameOutside, stored, readByte_platformWrite, BitVec.add_assoc, Temps.dead, hb0, hb1,
    ht]

/-! ## The trap and its return -/

/-- R141: taking the trap writes PCH, PCL and the flag image at the three stack bytes downwards from S, sets I, and loads PC
from the
two bytes that the platform answers at the vector after these writes. -/
theorem takeBreak_result (s : State) :
    ∃ lo hi,
      let es := [wr (stackAddr s.regs.s) (highByte s.pc), wr (stackAddr (s.regs.s - 1)) (lowByte s.pc),
                  wr (stackAddr (s.regs.s - 2)) (pushByte s.regs.p true), rd 0xFFFE lo, rd 0xFFFF hi]
      (takeBreak s).regs = { s.regs with s := s.regs.s - 3, p := setI s.regs.p } ∧ (takeBreak s).pc = addrOf hi lo ∧ (takeBreak
      s).ir = s.ir ∧
        (takeBreak s).trace = s.trace ++ es ∧ (takeBreak s).platform = s.platform ∧
        replay s.platform es s.bus s.mem = some (takeBreak s).mem := by
  obtain ⟨lo, hlo⟩ := exists_read s.platform (platformWrite s.platform (platformWrite s.platform (platformWrite s.platform
    s.mem (stackAddr s.regs.s) (highByte s.pc)) (stackAddr (s.regs.s - 1#8)) (lowByte s.pc)) (stackAddr (s.regs.s - 2#8))
    (pushByte s.regs.p true)) (wr (stackAddr (s.regs.s - 2#8)) (pushByte s.regs.p true) :: wr (stackAddr (s.regs.s - 1#8))
    (lowByte s.pc) :: wr (stackAddr s.regs.s) (highByte s.pc) :: s.bus) 65534#16
  obtain ⟨hi, hhi⟩ := exists_read s.platform (platformWrite s.platform (platformWrite s.platform (platformWrite s.platform
    s.mem (stackAddr s.regs.s) (highByte s.pc)) (stackAddr (s.regs.s - 1#8)) (lowByte s.pc)) (stackAddr (s.regs.s - 2#8))
    (pushByte s.regs.p true)) (rd 65534#16 lo :: wr (stackAddr (s.regs.s - 2#8)) (pushByte s.regs.p true) :: wr (stackAddr
    (s.regs.s - 1#8)) (lowByte s.pc) :: wr (stackAddr s.regs.s) (highByte s.pc) :: s.bus) 65535#16
  refine ⟨lo, hi, ?_⟩
  simp [takeBreak, runRows, cycleHappens, runCycle, cycleWrites, cycleAddr, cycleCommit, State.busRead,
    State.trace, BitVec.add_assoc, BitVec.sub_sub, hlo, hhi]

/-- R145: the return from the trap reads the stack byte at S, pulls the six flags, PCL and PCH from the three stack bytes
upwards from
S + 1, and changes no memory. -/
theorem returnFromBreak_result (s : State) :
    ∃ b0 v lo hi,
      let es := [rd (stackAddr s.regs.s) b0, rd (stackAddr (s.regs.s + 1)) v, rd (stackAddr (s.regs.s + 2)) lo,
                  rd (stackAddr (s.regs.s + 3)) hi]
      (returnFromBreak s).regs = { s.regs with s := s.regs.s + 3, p := pullP v } ∧ (returnFromBreak s).pc = addrOf hi lo ∧
      (returnFromBreak s).ir = s.ir ∧
        (returnFromBreak s).trace = s.trace ++ es ∧ (returnFromBreak s).platform = s.platform ∧
        replay s.platform es s.bus s.mem = some (returnFromBreak s).mem := by
  obtain ⟨b0, hb0⟩ := exists_read s.platform s.mem s.bus (stackAddr s.regs.s)
  obtain ⟨v, hv⟩ := exists_read s.platform s.mem (rd (stackAddr s.regs.s) b0 :: s.bus) (stackAddr (s.regs.s + 1#8))
  obtain ⟨lo, hlo⟩ := exists_read s.platform s.mem (rd (stackAddr (s.regs.s + 1#8)) v :: rd (stackAddr s.regs.s) b0 :: s.bus)
    (stackAddr (s.regs.s + 2#8))
  obtain ⟨hi, hhi⟩ := exists_read s.platform s.mem (rd (stackAddr (s.regs.s + 2#8)) lo :: rd (stackAddr (s.regs.s + 1#8)) v ::
    rd (stackAddr s.regs.s) b0 :: s.bus) (stackAddr (s.regs.s + 3#8))
  refine ⟨b0, v, lo, hi, ?_⟩
  simp [returnFromBreak, runRows, cycleHappens, runCycle, cycleWrites, cycleAddr, cycleCommit, State.busRead,
    State.trace, BitVec.add_assoc, BitVec.sub_sub, hb0, hv, hlo, hhi]

end Sys2Proof.Machine
end

