-- ==== Sys2Proof/Tests/Slice0.lean ====
section
/-! SUPPORT. The model's own tests. Every expected value is the spec's: the encodings of spec/30_encoding.md R51 to R57, and the
vectors T<n> of spec/95_test_vectors.md. The witnesses meet the hypotheses of the statements in
Sys2Proof/Certificates/Slice0/Obligations.lean. -/

namespace Sys2Proof.Tests

open Sys2Proof.Machine Sys2Proof.Safety

/-! ## Well-formedness -/

/-- R62: BIT has no absolute,X row. -/
theorem test_wellFormed_refuses_bit_absolute_x : Written.wellFormed ⟨.bit, .absoluteX, [0x00, 0x20]⟩ = false := by decide

/-- R62: STX and STY have no absolute indexed row. -/
theorem test_wellFormed_refuses_stx_absolute_y : Written.wellFormed ⟨.stx, .absoluteY, [0x00, 0x20]⟩ = false := by decide

theorem test_wellFormed_refuses_sty_absolute_x : Written.wellFormed ⟨.sty, .absoluteX, [0x00, 0x20]⟩ = false := by decide

/-- R51: an absolute operand is two bytes, an implied instruction has none. -/
theorem test_wellFormed_refuses_a_short_operand : Written.wellFormed ⟨.lda, .absolute, [0x20]⟩ = false := by decide

theorem test_wellFormed_refuses_an_operand_too_many : Written.wellFormed ⟨.pha, .implied, [0x20]⟩ = false := by decide

theorem test_wellFormed_accepts_stx_zero_page_y : Written.wellFormed ⟨.stx, .zeroPageY, [0x10]⟩ = true := by decide

/-! ## Decoding: every row's word, opcode in bits 7 to 0, operand bytes $12 (and $34) above it (R50, R51, R56) -/

theorem test_decode_row_0 :
    [ decodeTableWord 8 0x00, decodeTableWord 16 0x1201, decodeTableWord 16 0x1203, decodeTableWord 16 0x1204,
      decodeTableWord 16 0x1205, decodeTableWord 16 0x1206, decodeTableWord 16 0x1207, decodeTableWord 8 0x08,
      decodeTableWord 16 0x1209, decodeTableWord 8 0x0A, decodeTableWord 24 0x34120C, decodeTableWord 24 0x34120D,
      decodeTableWord 24 0x34120E, decodeTableWord 24 0x34120F ] =
    [ some (.brk), some (.oraIndX 0x12), some (.sloIndX 0x12), some (.nopZp04 0x12), some (.oraZp 0x12), some (.aslZp 0x12),
      some (.sloZp 0x12), some (.php), some (.oraImm 0x12), some (.aslAcc), some (.nopAbs 0x3412), some (.oraAbs 0x3412),
      some (.aslAbs 0x3412), some (.sloAbs 0x3412) ] := by
  decide

theorem test_decode_row_1 :
    [ decodeTableWord 16 0x1210, decodeTableWord 16 0x1211, decodeTableWord 16 0x1213, decodeTableWord 16 0x1214,
      decodeTableWord 16 0x1215, decodeTableWord 16 0x1216, decodeTableWord 16 0x1217, decodeTableWord 8 0x18,
      decodeTableWord 24 0x341219, decodeTableWord 24 0x34121B, decodeTableWord 24 0x34121C, decodeTableWord 24 0x34121D,
      decodeTableWord 24 0x34121E, decodeTableWord 24 0x34121F ] =
    [ some (.bpl 0x12), some (.oraIndY 0x12), some (.sloIndY 0x12), some (.nopZpX14 0x12), some (.oraZpX 0x12),
      some (.aslZpX 0x12), some (.sloZpX 0x12), some (.clc), some (.oraAbsY 0x3412), some (.sloAbsY 0x3412),
      some (.nopAbsX1C 0x3412), some (.oraAbsX 0x3412), some (.aslAbsX 0x3412), some (.sloAbsX 0x3412) ] := by
  decide

theorem test_decode_row_2 :
    [ decodeTableWord 24 0x341220, decodeTableWord 16 0x1221, decodeTableWord 16 0x1223, decodeTableWord 16 0x1224,
      decodeTableWord 16 0x1225, decodeTableWord 16 0x1226, decodeTableWord 16 0x1227, decodeTableWord 8 0x28,
      decodeTableWord 16 0x1229, decodeTableWord 8 0x2A, decodeTableWord 24 0x34122C, decodeTableWord 24 0x34122D,
      decodeTableWord 24 0x34122E, decodeTableWord 24 0x34122F ] =
    [ some (.jsr 0x3412), some (.andIndX 0x12), some (.rlaIndX 0x12), some (.bitZp 0x12), some (.andZp 0x12),
      some (.rolZp 0x12), some (.rlaZp 0x12), some (.plp), some (.andImm 0x12), some (.rolAcc), some (.bitAbs 0x3412),
      some (.andAbs 0x3412), some (.rolAbs 0x3412), some (.rlaAbs 0x3412) ] := by
  decide

theorem test_decode_row_3 :
    [ decodeTableWord 16 0x1230, decodeTableWord 16 0x1231, decodeTableWord 16 0x1233, decodeTableWord 16 0x1234,
      decodeTableWord 16 0x1235, decodeTableWord 16 0x1236, decodeTableWord 16 0x1237, decodeTableWord 8 0x38,
      decodeTableWord 24 0x341239, decodeTableWord 24 0x34123B, decodeTableWord 24 0x34123C, decodeTableWord 24 0x34123D,
      decodeTableWord 24 0x34123E, decodeTableWord 24 0x34123F ] =
    [ some (.bmi 0x12), some (.andIndY 0x12), some (.rlaIndY 0x12), some (.nopZpX34 0x12), some (.andZpX 0x12),
      some (.rolZpX 0x12), some (.rlaZpX 0x12), some (.sec), some (.andAbsY 0x3412), some (.rlaAbsY 0x3412),
      some (.nopAbsX3C 0x3412), some (.andAbsX 0x3412), some (.rolAbsX 0x3412), some (.rlaAbsX 0x3412) ] := by
  decide

theorem test_decode_row_4 :
    [ decodeTableWord 8 0x40, decodeTableWord 16 0x1241, decodeTableWord 16 0x1243, decodeTableWord 16 0x1244,
      decodeTableWord 16 0x1245, decodeTableWord 16 0x1246, decodeTableWord 16 0x1247, decodeTableWord 8 0x48,
      decodeTableWord 16 0x1249, decodeTableWord 8 0x4A, decodeTableWord 24 0x34124C, decodeTableWord 24 0x34124D,
      decodeTableWord 24 0x34124E, decodeTableWord 24 0x34124F ] =
    [ some (.rti), some (.eorIndX 0x12), some (.sreIndX 0x12), some (.nopZp44 0x12), some (.eorZp 0x12), some (.lsrZp 0x12),
      some (.sreZp 0x12), some (.pha), some (.eorImm 0x12), some (.lsrAcc), some (.jmpAbs 0x3412), some (.eorAbs 0x3412),
      some (.lsrAbs 0x3412), some (.sreAbs 0x3412) ] := by
  decide

theorem test_decode_row_5 :
    [ decodeTableWord 16 0x1250, decodeTableWord 16 0x1251, decodeTableWord 16 0x1253, decodeTableWord 16 0x1254,
      decodeTableWord 16 0x1255, decodeTableWord 16 0x1256, decodeTableWord 16 0x1257, decodeTableWord 8 0x58,
      decodeTableWord 24 0x341259, decodeTableWord 24 0x34125B, decodeTableWord 24 0x34125C, decodeTableWord 24 0x34125D,
      decodeTableWord 24 0x34125E, decodeTableWord 24 0x34125F ] =
    [ some (.bvc 0x12), some (.eorIndY 0x12), some (.sreIndY 0x12), some (.nopZpX54 0x12), some (.eorZpX 0x12),
      some (.lsrZpX 0x12), some (.sreZpX 0x12), some (.cli), some (.eorAbsY 0x3412), some (.sreAbsY 0x3412),
      some (.nopAbsX5C 0x3412), some (.eorAbsX 0x3412), some (.lsrAbsX 0x3412), some (.sreAbsX 0x3412) ] := by
  decide

theorem test_decode_row_6 :
    [ decodeTableWord 8 0x60, decodeTableWord 16 0x1261, decodeTableWord 16 0x1263, decodeTableWord 16 0x1264,
      decodeTableWord 16 0x1265, decodeTableWord 16 0x1266, decodeTableWord 16 0x1267, decodeTableWord 8 0x68,
      decodeTableWord 16 0x1269, decodeTableWord 8 0x6A, decodeTableWord 24 0x34126C, decodeTableWord 24 0x34126D,
      decodeTableWord 24 0x34126E, decodeTableWord 24 0x34126F ] =
    [ some (.rts), some (.adcIndX 0x12), some (.rraIndX 0x12), some (.nopZp64 0x12), some (.adcZp 0x12), some (.rorZp 0x12),
      some (.rraZp 0x12), some (.pla), some (.adcImm 0x12), some (.rorAcc), some (.jmpInd 0x3412), some (.adcAbs 0x3412),
      some (.rorAbs 0x3412), some (.rraAbs 0x3412) ] := by
  decide

theorem test_decode_row_7 :
    [ decodeTableWord 16 0x1270, decodeTableWord 16 0x1271, decodeTableWord 16 0x1273, decodeTableWord 16 0x1274,
      decodeTableWord 16 0x1275, decodeTableWord 16 0x1276, decodeTableWord 16 0x1277, decodeTableWord 8 0x78,
      decodeTableWord 24 0x341279, decodeTableWord 24 0x34127B, decodeTableWord 24 0x34127C, decodeTableWord 24 0x34127D,
      decodeTableWord 24 0x34127E, decodeTableWord 24 0x34127F ] =
    [ some (.bvs 0x12), some (.adcIndY 0x12), some (.rraIndY 0x12), some (.nopZpX74 0x12), some (.adcZpX 0x12),
      some (.rorZpX 0x12), some (.rraZpX 0x12), some (.sei), some (.adcAbsY 0x3412), some (.rraAbsY 0x3412),
      some (.nopAbsX7C 0x3412), some (.adcAbsX 0x3412), some (.rorAbsX 0x3412), some (.rraAbsX 0x3412) ] := by
  decide

theorem test_decode_row_8 :
    [ decodeTableWord 16 0x1281, decodeTableWord 16 0x1283, decodeTableWord 16 0x1284, decodeTableWord 16 0x1285,
      decodeTableWord 16 0x1286, decodeTableWord 16 0x1287, decodeTableWord 8 0x88, decodeTableWord 8 0x8A,
      decodeTableWord 24 0x34128C, decodeTableWord 24 0x34128D, decodeTableWord 24 0x34128E, decodeTableWord 24 0x34128F ] =
    [ some (.staIndX 0x12), some (.saxIndX 0x12), some (.styZp 0x12), some (.staZp 0x12), some (.stxZp 0x12),
      some (.saxZp 0x12), some (.dey), some (.txa), some (.styAbs 0x3412), some (.staAbs 0x3412), some (.stxAbs 0x3412),
      some (.saxAbs 0x3412) ] := by
  decide

theorem test_decode_row_9 :
    [ decodeTableWord 16 0x1290, decodeTableWord 16 0x1291, decodeTableWord 16 0x1293, decodeTableWord 16 0x1294,
      decodeTableWord 16 0x1295, decodeTableWord 16 0x1296, decodeTableWord 16 0x1297, decodeTableWord 8 0x98,
      decodeTableWord 24 0x341299, decodeTableWord 8 0x9A, decodeTableWord 24 0x34129B, decodeTableWord 24 0x34129C,
      decodeTableWord 24 0x34129D, decodeTableWord 24 0x34129E, decodeTableWord 24 0x34129F ] =
    [ some (.bcc 0x12), some (.staIndY 0x12), some (.shaIndY 0x12), some (.styZpX 0x12), some (.staZpX 0x12),
      some (.stxZpY 0x12), some (.saxZpY 0x12), some (.tya), some (.staAbsY 0x3412), some (.txs), some (.shsAbsY 0x3412),
      some (.shyAbsX 0x3412), some (.staAbsX 0x3412), some (.shxAbsY 0x3412), some (.shaAbsY 0x3412) ] := by
  decide

theorem test_decode_row_A :
    [ decodeTableWord 16 0x12A0, decodeTableWord 16 0x12A1, decodeTableWord 16 0x12A2, decodeTableWord 16 0x12A3,
      decodeTableWord 16 0x12A4, decodeTableWord 16 0x12A5, decodeTableWord 16 0x12A6, decodeTableWord 16 0x12A7,
      decodeTableWord 8 0xA8, decodeTableWord 16 0x12A9, decodeTableWord 8 0xAA, decodeTableWord 24 0x3412AC,
      decodeTableWord 24 0x3412AD, decodeTableWord 24 0x3412AE, decodeTableWord 24 0x3412AF ] =
    [ some (.ldyImm 0x12), some (.ldaIndX 0x12), some (.ldxImm 0x12), some (.laxIndX 0x12), some (.ldyZp 0x12),
      some (.ldaZp 0x12), some (.ldxZp 0x12), some (.laxZp 0x12), some (.tay), some (.ldaImm 0x12), some (.tax),
      some (.ldyAbs 0x3412), some (.ldaAbs 0x3412), some (.ldxAbs 0x3412), some (.laxAbs 0x3412) ] := by
  decide

theorem test_decode_row_B :
    [ decodeTableWord 16 0x12B0, decodeTableWord 16 0x12B1, decodeTableWord 16 0x12B3, decodeTableWord 16 0x12B4,
      decodeTableWord 16 0x12B5, decodeTableWord 16 0x12B6, decodeTableWord 16 0x12B7, decodeTableWord 8 0xB8,
      decodeTableWord 24 0x3412B9, decodeTableWord 8 0xBA, decodeTableWord 24 0x3412BB, decodeTableWord 24 0x3412BC,
      decodeTableWord 24 0x3412BD, decodeTableWord 24 0x3412BE, decodeTableWord 24 0x3412BF ] =
    [ some (.bcs 0x12), some (.ldaIndY 0x12), some (.laxIndY 0x12), some (.ldyZpX 0x12), some (.ldaZpX 0x12),
      some (.ldxZpY 0x12), some (.laxZpY 0x12), some (.clv), some (.ldaAbsY 0x3412), some (.tsx), some (.laeAbsY 0x3412),
      some (.ldyAbsX 0x3412), some (.ldaAbsX 0x3412), some (.ldxAbsY 0x3412), some (.laxAbsY 0x3412) ] := by
  decide

theorem test_decode_row_C :
    [ decodeTableWord 16 0x12C0, decodeTableWord 16 0x12C1, decodeTableWord 16 0x12C3, decodeTableWord 16 0x12C4,
      decodeTableWord 16 0x12C5, decodeTableWord 16 0x12C6, decodeTableWord 16 0x12C7, decodeTableWord 8 0xC8,
      decodeTableWord 16 0x12C9, decodeTableWord 8 0xCA, decodeTableWord 24 0x3412CC, decodeTableWord 24 0x3412CD,
      decodeTableWord 24 0x3412CE, decodeTableWord 24 0x3412CF ] =
    [ some (.cpyImm 0x12), some (.cmpIndX 0x12), some (.dcpIndX 0x12), some (.cpyZp 0x12), some (.cmpZp 0x12),
      some (.decZp 0x12), some (.dcpZp 0x12), some (.iny), some (.cmpImm 0x12), some (.dex), some (.cpyAbs 0x3412),
      some (.cmpAbs 0x3412), some (.decAbs 0x3412), some (.dcpAbs 0x3412) ] := by
  decide

theorem test_decode_row_D :
    [ decodeTableWord 16 0x12D0, decodeTableWord 16 0x12D1, decodeTableWord 16 0x12D3, decodeTableWord 16 0x12D4,
      decodeTableWord 16 0x12D5, decodeTableWord 16 0x12D6, decodeTableWord 16 0x12D7, decodeTableWord 8 0xD8,
      decodeTableWord 24 0x3412D9, decodeTableWord 24 0x3412DB, decodeTableWord 24 0x3412DC, decodeTableWord 24 0x3412DD,
      decodeTableWord 24 0x3412DE, decodeTableWord 24 0x3412DF ] =
    [ some (.bne 0x12), some (.cmpIndY 0x12), some (.dcpIndY 0x12), some (.nopZpXD4 0x12), some (.cmpZpX 0x12),
      some (.decZpX 0x12), some (.dcpZpX 0x12), some (.cld), some (.cmpAbsY 0x3412), some (.dcpAbsY 0x3412),
      some (.nopAbsXDC 0x3412), some (.cmpAbsX 0x3412), some (.decAbsX 0x3412), some (.dcpAbsX 0x3412) ] := by
  decide

theorem test_decode_row_E :
    [ decodeTableWord 16 0x12E0, decodeTableWord 16 0x12E1, decodeTableWord 16 0x12E3, decodeTableWord 16 0x12E4,
      decodeTableWord 16 0x12E5, decodeTableWord 16 0x12E6, decodeTableWord 16 0x12E7, decodeTableWord 8 0xE8,
      decodeTableWord 16 0x12E9, decodeTableWord 8 0xEA, decodeTableWord 24 0x3412EC, decodeTableWord 24 0x3412ED,
      decodeTableWord 24 0x3412EE, decodeTableWord 24 0x3412EF ] =
    [ some (.cpxImm 0x12), some (.sbcIndX 0x12), some (.isbIndX 0x12), some (.cpxZp 0x12), some (.sbcZp 0x12),
      some (.incZp 0x12), some (.isbZp 0x12), some (.inx), some (.sbcImm 0x12), some (.nop), some (.cpxAbs 0x3412),
      some (.sbcAbs 0x3412), some (.incAbs 0x3412), some (.isbAbs 0x3412) ] := by
  decide

theorem test_decode_row_F :
    [ decodeTableWord 16 0x12F0, decodeTableWord 16 0x12F1, decodeTableWord 16 0x12F3, decodeTableWord 16 0x12F4,
      decodeTableWord 16 0x12F5, decodeTableWord 16 0x12F6, decodeTableWord 16 0x12F7, decodeTableWord 8 0xF8,
      decodeTableWord 24 0x3412F9, decodeTableWord 24 0x3412FB, decodeTableWord 24 0x3412FC, decodeTableWord 24 0x3412FD,
      decodeTableWord 24 0x3412FE, decodeTableWord 24 0x3412FF ] =
    [ some (.beq 0x12), some (.sbcIndY 0x12), some (.isbIndY 0x12), some (.nopZpXF4 0x12), some (.sbcZpX 0x12),
      some (.incZpX 0x12), some (.isbZpX 0x12), some (.sed), some (.sbcAbsY 0x3412), some (.isbAbsY 0x3412),
      some (.nopAbsXFC 0x3412), some (.sbcAbsX 0x3412), some (.incAbsX 0x3412), some (.isbAbsX 0x3412) ] := by
  decide

theorem test_decode_no_row : decodeTableWord 8 0x02 = none ∧ decodeTableWord 8 0xFA = none := by decide

/-! ## One step: the vectors of the spec -/

/-- The conventions of the vectors: registers and flags 0 but for S = $FF, at an instruction boundary. -/
def regs0 : Regs := ⟨0x00, 0x00, 0x00, 0xFF, ⟨false, false, false, false, false, false⟩⟩

/-- A state at an instruction boundary with nothing on its trace. -/
def before (pc : Addr) (r : Regs) (m : Memory) : State := ⟨r, pc, 0x00, 1, Temps.dead, m, [], []⟩

/-- A state with a program in read-only memory at $0300, a device at $4000-$40FF, nothing at $8000-$8FFF, vectors in read-only memory,
and plain memory elsewhere (R38). -/
def onPlatform (r : Regs) (m : Memory) : State :=
  (before 0x0300 r m).setPlatform
    [⟨0x0300, 0x0302, .readOnly⟩, ⟨0x4000, 0x40FF, .device⟩, ⟨0x8000, 0x8FFF, .unpopulated⟩, ⟨0xFFFE, 0xFFFF, .readOnly⟩]

/-- Does the answer's next state have this PC and these accesses? -/
def goes (o : Out) (pc : Addr) (accesses : List (AccessKind × Addr)) : Bool :=
  match o with
  | .next t => t.pc == pc && t.trace.map (fun e => (e.kind, e.addr)) == accesses && t.t == 1
  | .refused _ => false

/-- Does the answer's next state have these registers, and these bytes of memory? -/
def holds (o : Out) (r : Regs) (cells : List (Addr × Byte)) : Bool :=
  match o with
  | .next t => t.regs == r && cells.all fun c => readByte t.mem c.1 == c.2
  | .refused _ => false

/-- Does the answer's next state have this byte as the n-th moved on the bus? -/
def moves (o : Out) (n : Nat) (b : Byte) : Bool :=
  match o with
  | .next t => (t.trace.map (·.byte))[n]? == some b
  | .refused _ => false

/-- T1: BRK basic. -/
theorem test_T1_brk :
    let o := step (before 0x0400 { regs0 with p := { regs0.p with v := true, d := true, z := true } } [(0x0401, 0xFF), (0xFFFF, 0x03)])
    goes o 0x0300 [(.read, 0x0400), (.read, 0x0401), (.write, 0x01FF), (.write, 0x01FE), (.write, 0x01FD), (.read, 0xFFFE), (.read, 0xFFFF)] ∧
      holds o { regs0 with s := 0xFC, p := { regs0.p with v := true, d := true, i := true, z := true } } [(0x01FF, 0x04), (0x01FE, 0x02), (0x01FD, 0x7A)] := by
  decide

/-- T2: BRK, S wraps. -/
theorem test_T2_brk :
    let o := step (before 0x0400 { regs0 with s := 0x01, p := { regs0.p with n := true, i := true, c := true } } [(0xFFFE, 0x34), (0xFFFF, 0x12)])
    goes o 0x1234 [(.read, 0x0400), (.read, 0x0401), (.write, 0x0101), (.write, 0x0100), (.write, 0x01FF), (.read, 0xFFFE), (.read, 0xFFFF)] ∧
      holds o { regs0 with s := 0xFE, p := { regs0.p with n := true, i := true, c := true } } [(0x0101, 0x04), (0x0100, 0x02), (0x01FF, 0xB5)] := by
  decide

/-- T5: RTI basic. -/
theorem test_T5_rti :
    let o := step (before 0x0300 { regs0 with s := 0xFC, p := { regs0.p with i := true } } [(0x01FD, 0x7A), (0x01FE, 0x02), (0x01FF, 0x04), (0x0300, 0x40), (0x0301, 0xEA)])
    goes o 0x0402 [(.read, 0x0300), (.read, 0x0301), (.read, 0x01FC), (.read, 0x01FD), (.read, 0x01FE), (.read, 0x01FF)] ∧
      holds o { regs0 with p := { regs0.p with v := true, d := true, z := true } } [] := by
  decide

/-- T6: RTI, S wraps; bits 5,4 of pulled byte ignored. -/
theorem test_T6_rti :
    let o := step (before 0x0300 { regs0 with s := 0xFD } [(0x0100, 0x56), (0x01FE, 0xCF), (0x01FF, 0x78), (0x0300, 0x40), (0x0301, 0xEA)])
    goes o 0x5678 [(.read, 0x0300), (.read, 0x0301), (.read, 0x01FD), (.read, 0x01FE), (.read, 0x01FF), (.read, 0x0100)] ∧
      holds o { regs0 with s := 0x00, p := { regs0.p with n := true, v := true, d := true, i := true, z := true, c := true } } [] := by
  decide

/-- T8: RTS basic. -/
theorem test_T8_rts :
    let o := step (before 0x0605 { regs0 with s := 0xFD } [(0x01FE, 0x02), (0x01FF, 0x06), (0x0605, 0x60), (0x0606, 0xEA)])
    goes o 0x0603 [(.read, 0x0605), (.read, 0x0606), (.read, 0x01FD), (.read, 0x01FE), (.read, 0x01FF), (.read, 0x0602)] ∧
      holds o regs0 [] := by
  decide

/-- T9: RTS pulled word $FFFF: PC wraps to $0000. -/
theorem test_T9_rts :
    let o := step (before 0x0605 { regs0 with s := 0xFD } [(0x01FE, 0xFF), (0x01FF, 0xFF), (0x0605, 0x60), (0x0606, 0xEA)])
    goes o 0x0000 [(.read, 0x0605), (.read, 0x0606), (.read, 0x01FD), (.read, 0x01FE), (.read, 0x01FF), (.read, 0xFFFF)] ∧
      holds o regs0 [] := by
  decide

/-- T11: PHA basic. -/
theorem test_T11_pha :
    let o := step (before 0x0603 { regs0 with a := 0x5A } [(0x0603, 0x48), (0x0604, 0xEA)])
    goes o 0x0604 [(.read, 0x0603), (.read, 0x0604), (.write, 0x01FF)] ∧
      holds o { regs0 with a := 0x5A, s := 0xFE } [(0x01FF, 0x5A)] := by
  decide

/-- T13: PHA overwrites the next opcode (PC0+1 = StackAddr(S0)). -/
theorem test_T13_pha :
    let o := step (before 0x017F { regs0 with a := 0x60, s := 0x80 } [(0x017F, 0x48), (0x0180, 0xEA)])
    goes o 0x0180 [(.read, 0x017F), (.read, 0x0180), (.write, 0x0180)] ∧
      holds o { regs0 with a := 0x60, s := 0x7F } [(0x0180, 0x60)] := by
  decide

/-- T14: PHP basic. -/
theorem test_T14_php :
    let o := step (before 0x0200 { regs0 with p := { regs0.p with n := true, i := true, c := true } } [(0x0200, 0x08), (0x0201, 0xEA)])
    goes o 0x0201 [(.read, 0x0200), (.read, 0x0201), (.write, 0x01FF)] ∧
      holds o { regs0 with s := 0xFE, p := { regs0.p with n := true, i := true, c := true } } [(0x01FF, 0xB5)] := by
  decide

/-- T16: PHP all flags 1: $FF. -/
theorem test_T16_php :
    let o := step (before 0x0200 { regs0 with s := 0x00, p := { regs0.p with n := true, v := true, d := true, i := true, z := true, c := true } } [(0x0200, 0x08), (0x0201, 0xEA)])
    goes o 0x0201 [(.read, 0x0200), (.read, 0x0201), (.write, 0x0100)] ∧
      holds o { regs0 with p := { regs0.p with n := true, v := true, d := true, i := true, z := true, c := true } } [(0x0100, 0xFF)] := by
  decide

/-- T17: PLA basic, negative. -/
theorem test_T17_pla :
    let o := step (before 0x0203 { regs0 with s := 0xFE } [(0x01FF, 0xB5), (0x0203, 0x68), (0x0204, 0xEA)])
    goes o 0x0204 [(.read, 0x0203), (.read, 0x0204), (.read, 0x01FE), (.read, 0x01FF)] ∧
      holds o { regs0 with a := 0xB5, p := { regs0.p with n := true } } [] := by
  decide

/-- T18: PLA zero sets Z, clears N. -/
theorem test_T18_pla :
    let o := step (before 0x0203 { regs0 with a := 0x99, s := 0xFE, p := { regs0.p with n := true } } [(0x0203, 0x68), (0x0204, 0xEA)])
    goes o 0x0204 [(.read, 0x0203), (.read, 0x0204), (.read, 0x01FE), (.read, 0x01FF)] ∧
      holds o { regs0 with p := { regs0.p with z := true } } [] := by
  decide

/-- T20: PLP basic. -/
theorem test_T20_plp :
    let o := step (before 0x0202 { regs0 with s := 0xFD, p := { regs0.p with i := true } } [(0x01FE, 0xC3), (0x0202, 0x28), (0x0203, 0xEA)])
    goes o 0x0203 [(.read, 0x0202), (.read, 0x0203), (.read, 0x01FD), (.read, 0x01FE)] ∧
      holds o { regs0 with s := 0xFE, p := { regs0.p with n := true, v := true, z := true, c := true } } [] := by
  decide

/-- T22: PLP $30: only bits 5,4 set, no flag set. -/
theorem test_T22_plp :
    let o := step (before 0x0202 { regs0 with s := 0xFE, p := { regs0.p with c := true } } [(0x01FF, 0x30), (0x0202, 0x28), (0x0203, 0xEA)])
    goes o 0x0203 [(.read, 0x0202), (.read, 0x0203), (.read, 0x01FE), (.read, 0x01FF)] ∧
      holds o regs0 [] := by
  decide

/-- T25: JSR from the stack page: pushed PCH becomes the high target byte. -/
theorem test_T25_jsr :
    let o := step (before 0x01FD regs0 [(0x01FD, 0x20), (0x01FE, 0x34), (0x01FF, 0x12)])
    goes o 0x0134 [(.read, 0x01FD), (.read, 0x01FE), (.read, 0x01FF), (.write, 0x01FF), (.write, 0x01FE), (.read, 0x01FF)] ∧
      holds o { regs0 with s := 0xFD } [(0x01FF, 0x01), (0x01FE, 0xFF)] := by
  decide

/-- T26: JSR at $FFFE: operand bytes at $FFFF and $0000. -/
theorem test_T26_jsr :
    let o := step (before 0xFFFE regs0 [(0x0000, 0x12), (0xFFFE, 0x20), (0xFFFF, 0x34)])
    goes o 0x1234 [(.read, 0xFFFE), (.read, 0xFFFF), (.read, 0x01FF), (.write, 0x01FF), (.write, 0x01FE), (.read, 0x0000)] ∧
      holds o { regs0 with s := 0xFD } [(0x01FF, 0x00), (0x01FE, 0x00)] := by
  decide

/-- T30: implied (NOP $EA): dummy read of next byte. -/
theorem test_T30_nop :
    let o := step (before 0x0200 regs0 [(0x0200, 0xEA)])
    goes o 0x0201 [(.read, 0x0200), (.read, 0x0201)] := by
  decide

/-- T31: accumulator (ASL A $0A). -/
theorem test_T31_aslAcc :
    let o := step (before 0x0200 { regs0 with a := 0x81 } [(0x0200, 0x0A)])
    goes o 0x0201 [(.read, 0x0200), (.read, 0x0201)] := by
  decide

/-- T33: immediate (LDA #$10). -/
theorem test_T33_ldaImm :
    let o := step (before 0x0200 regs0 [(0x0200, 0xA9), (0x0201, 0x10)])
    goes o 0x0202 [(.read, 0x0200), (.read, 0x0201)] := by
  decide

/-- T34: immediate at $FFFF: operand at $0000, PC=$0001. -/
theorem test_T34_ldaImm :
    let o := step (before 0xFFFF regs0 [(0x0000, 0x42), (0xFFFF, 0xA9)])
    goes o 0x0001 [(.read, 0xFFFF), (.read, 0x0000)] := by
  decide

/-- T41: JMP to itself. -/
theorem test_T41_jmpAbs :
    let o := step (before 0x0300 regs0 [(0x0300, 0x4C), (0x0302, 0x03)])
    goes o 0x0300 [(.read, 0x0300), (.read, 0x0301), (.read, 0x0302)] ∧
      holds o regs0 [] := by
  decide

/-- T42: JMP at $FFFE: high byte from $0000. -/
theorem test_T42_jmpAbs :
    let o := step (before 0xFFFE regs0 [(0x0000, 0x12), (0xFFFE, 0x4C), (0xFFFF, 0x34)])
    goes o 0x1234 [(.read, 0xFFFE), (.read, 0xFFFF), (.read, 0x0000)] ∧
      holds o regs0 [] := by
  decide

/-- T43: absolute Read (LDA $2000). -/
theorem test_T43_ldaAbs :
    let o := step (before 0x0300 regs0 [(0x0300, 0xAD), (0x0302, 0x20), (0x2000, 0x99)])
    goes o 0x0303 [(.read, 0x0300), (.read, 0x0301), (.read, 0x0302), (.read, 0x2000)] ∧ moves o 3 0x99 := by
  decide

/-- T44: absolute RMW (INC $2000): old value written first. -/
theorem test_T44_incAbs :
    let o := step (before 0x0300 regs0 [(0x0300, 0xEE), (0x0302, 0x20), (0x2000, 0x41)])
    goes o 0x0303 [(.read, 0x0300), (.read, 0x0301), (.read, 0x0302), (.read, 0x2000), (.write, 0x2000), (.write, 0x2000)] ∧ moves o 4 0x41 := by
  decide

/-- T45: absolute Write STA. -/
theorem test_T45_staAbs :
    let o := step (before 0x0300 { regs0 with a := 0x7F } [(0x0300, 0x8D), (0x0302, 0x20)])
    goes o 0x0303 [(.read, 0x0300), (.read, 0x0301), (.read, 0x0302), (.write, 0x2000)] ∧
      holds o { regs0 with a := 0x7F } [(0x2000, 0x7F)] := by
  decide

/-- T46: absolute Write STX. -/
theorem test_T46_stxAbs :
    let o := step (before 0x0300 { regs0 with x := 0x12 } [(0x0300, 0x8E), (0x0301, 0xFF), (0x0302, 0xFF)])
    goes o 0x0303 [(.read, 0x0300), (.read, 0x0301), (.read, 0x0302), (.write, 0xFFFF)] ∧
      holds o { regs0 with x := 0x12 } [(0xFFFF, 0x12)] := by
  decide

/-- T47: absolute Write STY into its own operand (no effect on this instruction). -/
theorem test_T47_styAbs :
    let o := step (before 0x0300 { regs0 with y := 0x55 } [(0x0300, 0x8C), (0x0301, 0x01), (0x0302, 0x03)])
    goes o 0x0303 [(.read, 0x0300), (.read, 0x0301), (.read, 0x0302), (.write, 0x0301)] ∧
      holds o { regs0 with y := 0x55 } [(0x0301, 0x55)] := by
  decide

/-- T50: zero page Read (LDA $10). -/
theorem test_T50_ldaZp :
    let o := step (before 0x0300 regs0 [(0x0010, 0x33), (0x0300, 0xA5), (0x0301, 0x10)])
    goes o 0x0302 [(.read, 0x0300), (.read, 0x0301), (.read, 0x0010)] ∧ moves o 2 0x33 := by
  decide

/-- T51: zero page RMW (INC $10). -/
theorem test_T51_incZp :
    let o := step (before 0x0300 regs0 [(0x0010, 0xFF), (0x0300, 0xE6), (0x0301, 0x10)])
    goes o 0x0302 [(.read, 0x0300), (.read, 0x0301), (.read, 0x0010), (.write, 0x0010), (.write, 0x0010)] ∧ moves o 3 0xFF := by
  decide

/-- T52: zero page Write STA. -/
theorem test_T52_staZp :
    let o := step (before 0x0300 { regs0 with a := 0x7F } [(0x0300, 0x85), (0x0301, 0x10)])
    goes o 0x0302 [(.read, 0x0300), (.read, 0x0301), (.write, 0x0010)] ∧
      holds o { regs0 with a := 0x7F } [(0x0010, 0x7F)] := by
  decide

/-- T53: zero page,X Read (LDA $80,X), wraps in page 0. -/
theorem test_T53_ldaZpX :
    let o := step (before 0x0300 { regs0 with x := 0x90 } [(0x0010, 0x44), (0x0080, 0x11), (0x0300, 0xB5), (0x0301, 0x80)])
    goes o 0x0302 [(.read, 0x0300), (.read, 0x0301), (.read, 0x0080), (.read, 0x0010)] ∧ moves o 3 0x44 := by
  decide

/-- T54: zero page,Y Read (LDX $FF,Y), Y=$02: address $0001, not $0101. -/
theorem test_T54_ldxZpY :
    let o := step (before 0x0300 { regs0 with y := 0x02 } [(0x0001, 0x66), (0x0101, 0x77), (0x0300, 0xB6), (0x0301, 0xFF)])
    goes o 0x0302 [(.read, 0x0300), (.read, 0x0301), (.read, 0x00FF), (.read, 0x0001)] ∧ moves o 3 0x66 := by
  decide

/-- T55: zero page,X RMW (INC $FF,X) X=1: $0000. -/
theorem test_T55_incZpX :
    let o := step (before 0x0300 { regs0 with x := 0x01 } [(0x0000, 0x09), (0x0300, 0xF6), (0x0301, 0xFF)])
    goes o 0x0302 [(.read, 0x0300), (.read, 0x0301), (.read, 0x00FF), (.read, 0x0000), (.write, 0x0000), (.write, 0x0000)] ∧ moves o 4 0x09 := by
  decide

/-- T56: zero page,X Write STA. -/
theorem test_T56_staZpX :
    let o := step (before 0x0300 { regs0 with a := 0x7F, x := 0x05 } [(0x0300, 0x95), (0x0301, 0x10)])
    goes o 0x0302 [(.read, 0x0300), (.read, 0x0301), (.read, 0x0010), (.write, 0x0015)] ∧
      holds o { regs0 with a := 0x7F, x := 0x05 } [(0x0015, 0x7F)] := by
  decide

/-- T57: zero page,Y Write STX, wraps. -/
theorem test_T57_stxZpY :
    let o := step (before 0x0300 { regs0 with x := 0x3C, y := 0x20 } [(0x0300, 0x96), (0x0301, 0xF0)])
    goes o 0x0302 [(.read, 0x0300), (.read, 0x0301), (.read, 0x00F0), (.write, 0x0010)] ∧
      holds o { regs0 with x := 0x3C, y := 0x20 } [(0x0010, 0x3C)] := by
  decide

/-- T58: zero page,X Write STY, X=0: dummy read and write at the same address. -/
theorem test_T58_styZpX :
    let o := step (before 0x0300 { regs0 with y := 0x0D } [(0x0300, 0x94), (0x0301, 0x42)])
    goes o 0x0302 [(.read, 0x0300), (.read, 0x0301), (.read, 0x0042), (.write, 0x0042)] ∧
      holds o { regs0 with y := 0x0D } [(0x0042, 0x0D)] := by
  decide

/-- T61: abs,X Read, crossing: 5 cycles, dummy read $100 low. -/
theorem test_T61_ldaAbsX :
    let o := step (before 0x0300 { regs0 with x := 0x01 } [(0x0300, 0xBD), (0x0301, 0xFF), (0x0302, 0x10), (0x1000, 0xAA), (0x1100, 0xBB)])
    goes o 0x0303 [(.read, 0x0300), (.read, 0x0301), (.read, 0x0302), (.read, 0x1000), (.read, 0x1100)] ∧ moves o 4 0xBB := by
  decide

/-- T62: abs,Y Read, crossing past $FFFF: wraps to $0000. -/
theorem test_T62_ldaAbsY :
    let o := step (before 0x0300 { regs0 with y := 0x01 } [(0x0000, 0x02), (0x0300, 0xB9), (0x0301, 0xFF), (0x0302, 0xFF), (0xFF00, 0x01)])
    goes o 0x0303 [(.read, 0x0300), (.read, 0x0301), (.read, 0x0302), (.read, 0xFF00), (.read, 0x0000)] ∧ moves o 4 0x02 := by
  decide

/-- T63: abs,X Read, lo+X = $FF exactly: no crossing. -/
theorem test_T63_ldaAbsX :
    let o := step (before 0x0300 { regs0 with x := 0x0F } [(0x0300, 0xBD), (0x0301, 0xF0), (0x0302, 0x20), (0x20FF, 0x07)])
    goes o 0x0303 [(.read, 0x0300), (.read, 0x0301), (.read, 0x0302), (.read, 0x20FF)] ∧ moves o 3 0x07 := by
  decide

/-- T64: abs,X RMW, no crossing: c4 and c5 read the same address. -/
theorem test_T64_incAbsX :
    let o := step (before 0x0300 { regs0 with x := 0x05 } [(0x0300, 0xFE), (0x0302, 0x20), (0x2005, 0x10)])
    goes o 0x0303 [(.read, 0x0300), (.read, 0x0301), (.read, 0x0302), (.read, 0x2005), (.read, 0x2005), (.write, 0x2005), (.write, 0x2005)] ∧ moves o 5 0x10 := by
  decide

/-- T65: abs,X RMW, crossing. -/
theorem test_T65_incAbsX :
    let o := step (before 0x0300 { regs0 with x := 0x01 } [(0x0300, 0xFE), (0x0301, 0xFF), (0x0302, 0x20), (0x2000, 0xEE), (0x2100, 0x10)])
    goes o 0x0303 [(.read, 0x0300), (.read, 0x0301), (.read, 0x0302), (.read, 0x2000), (.read, 0x2100), (.write, 0x2100), (.write, 0x2100)] ∧ moves o 5 0x10 := by
  decide

/-- T66: abs,X Write STA, crossing: dummy read $2010, write $2110. -/
theorem test_T66_staAbsX :
    let o := step (before 0x0300 { regs0 with a := 0x7F, x := 0x20 } [(0x0300, 0x9D), (0x0301, 0xF0), (0x0302, 0x20)])
    goes o 0x0303 [(.read, 0x0300), (.read, 0x0301), (.read, 0x0302), (.read, 0x2010), (.write, 0x2110)] ∧
      holds o { regs0 with a := 0x7F, x := 0x20 } [(0x2110, 0x7F)] := by
  decide

/-- T67: abs,Y Write STA, no crossing: dummy read at the target itself. -/
theorem test_T67_staAbsY :
    let o := step (before 0x0300 { regs0 with a := 0x7F, y := 0x30 } [(0x0300, 0x99), (0x0302, 0x20)])
    goes o 0x0303 [(.read, 0x0300), (.read, 0x0301), (.read, 0x0302), (.read, 0x2030), (.write, 0x2030)] ∧
      holds o { regs0 with a := 0x7F, y := 0x30 } [(0x2030, 0x7F)] := by
  decide

/-- T68: SHX $9E: refused. -/
theorem test_T68_shxAbsY :
    step (before 0x0300 { regs0 with x := 0x01, y := 0x01 } [(0x0300, 0x9E), (0x0302, 0x20)]) =
      .refused (.unstableOpcode 0x9E) := rfl

/-- T69: SHS $9B: refused. -/
theorem test_T69_shsAbsY :
    step (before 0x0300 regs0 [(0x0300, 0x9B), (0x0302, 0x20)]) =
      .refused (.unstableOpcode 0x9B) := rfl

/-- T80: (zp,X) Read, pointer wraps: low from $00FF, high from $0000. -/
theorem test_T80_ldaIndX :
    let o := step (before 0x0300 { regs0 with x := 0x01 } [(0x0000, 0x12), (0x00FF, 0x34), (0x0300, 0xA1), (0x0301, 0xFE), (0x1234, 0x9A)])
    goes o 0x0302 [(.read, 0x0300), (.read, 0x0301), (.read, 0x00FE), (.read, 0x00FF), (.read, 0x0000), (.read, 0x1234)] ∧ moves o 5 0x9A := by
  decide

/-- T81: (zp,X) Read, ptr+X wraps. -/
theorem test_T81_ldaIndX :
    let o := step (before 0x0300 { regs0 with x := 0x20 } [(0x0011, 0x20), (0x0300, 0xA1), (0x0301, 0xF0), (0x2000, 0x01)])
    goes o 0x0302 [(.read, 0x0300), (.read, 0x0301), (.read, 0x00F0), (.read, 0x0010), (.read, 0x0011), (.read, 0x2000)] ∧ moves o 5 0x01 := by
  decide

/-- T82: (zp,X) RMW (DCP ($10,X)). -/
theorem test_T82_dcpIndX :
    let o := step (before 0x0300 regs0 [(0x0011, 0x20), (0x0300, 0xC3), (0x0301, 0x10), (0x2000, 0x05)])
    goes o 0x0302 [(.read, 0x0300), (.read, 0x0301), (.read, 0x0010), (.read, 0x0010), (.read, 0x0011), (.read, 0x2000), (.write, 0x2000), (.write, 0x2000)] ∧ moves o 6 0x05 := by
  decide

/-- T83: (zp,X) Write STA. -/
theorem test_T83_staIndX :
    let o := step (before 0x0300 { regs0 with a := 0x7F, x := 0x04 } [(0x0015, 0x20), (0x0300, 0x81), (0x0301, 0x10)])
    goes o 0x0302 [(.read, 0x0300), (.read, 0x0301), (.read, 0x0010), (.read, 0x0014), (.read, 0x0015), (.write, 0x2000)] ∧
      holds o { regs0 with a := 0x7F, x := 0x04 } [(0x2000, 0x7F)] := by
  decide

/-- T85: (zp),Y Read, crossing: 6 cycles. -/
theorem test_T85_ldaIndY :
    let o := step (before 0x0300 { regs0 with y := 0x20 } [(0x0010, 0xF0), (0x0011, 0x20), (0x0300, 0xB1), (0x0301, 0x10), (0x2010, 0x01), (0x2110, 0x02)])
    goes o 0x0302 [(.read, 0x0300), (.read, 0x0301), (.read, 0x0010), (.read, 0x0011), (.read, 0x2010), (.read, 0x2110)] ∧ moves o 5 0x02 := by
  decide

/-- T86: (zp),Y Read, pointer at $FF: high from $0000. -/
theorem test_T86_ldaIndY :
    let o := step (before 0x0300 regs0 [(0x0000, 0x40), (0x0100, 0x99), (0x0300, 0xB1), (0x0301, 0xFF), (0x4000, 0x6D)])
    goes o 0x0302 [(.read, 0x0300), (.read, 0x0301), (.read, 0x00FF), (.read, 0x0000), (.read, 0x4000)] ∧ moves o 4 0x6D := by
  decide

/-- T87: (zp),Y RMW (DCP ($10),Y), crossing. -/
theorem test_T87_dcpIndY :
    let o := step (before 0x0300 { regs0 with y := 0x01 } [(0x0010, 0xFF), (0x0011, 0x20), (0x0300, 0xD3), (0x0301, 0x10), (0x2100, 0x08)])
    goes o 0x0302 [(.read, 0x0300), (.read, 0x0301), (.read, 0x0010), (.read, 0x0011), (.read, 0x2000), (.read, 0x2100), (.write, 0x2100), (.write, 0x2100)] ∧ moves o 6 0x08 := by
  decide

/-- T88: (zp),Y Write STA, no crossing. -/
theorem test_T88_staIndY :
    let o := step (before 0x0300 { regs0 with a := 0x7F, y := 0x05 } [(0x0011, 0x20), (0x0300, 0x91), (0x0301, 0x10)])
    goes o 0x0302 [(.read, 0x0300), (.read, 0x0301), (.read, 0x0010), (.read, 0x0011), (.read, 0x2005), (.write, 0x2005)] ∧
      holds o { regs0 with a := 0x7F, y := 0x05 } [(0x2005, 0x7F)] := by
  decide

/-- T89: (zp),Y Write STA, crossing past $FFFF. -/
theorem test_T89_staIndY :
    let o := step (before 0x0300 { regs0 with a := 0x7F, y := 0x02 } [(0x0010, 0xFF), (0x0011, 0xFF), (0x0300, 0x91), (0x0301, 0x10)])
    goes o 0x0302 [(.read, 0x0300), (.read, 0x0301), (.read, 0x0010), (.read, 0x0011), (.read, 0xFF01), (.write, 0x0001)] ∧
      holds o { regs0 with a := 0x7F, y := 0x02 } [(0x0001, 0x7F)] := by
  decide

/-- T90: SHA ($93): refused. -/
theorem test_T90_shaIndY :
    step (before 0x0300 regs0 [(0x0300, 0x93), (0x0301, 0x10)]) =
      .refused (.unstableOpcode 0x93) := rfl

/-- T91: JMP (abs), pointer inside a page. -/
theorem test_T91_jmpInd :
    let o := step (before 0x0300 regs0 [(0x0200, 0x34), (0x0201, 0x12), (0x0300, 0x6C), (0x0302, 0x02)])
    goes o 0x1234 [(.read, 0x0300), (.read, 0x0301), (.read, 0x0302), (.read, 0x0200), (.read, 0x0201)] ∧
      holds o regs0 [] := by
  decide

/-- T92: JMP (abs), pointer at $02FF: high byte from $0200. -/
theorem test_T92_jmpInd :
    let o := step (before 0x0300 regs0 [(0x0200, 0x12), (0x02FF, 0x34), (0x0300, 0x6C), (0x0301, 0xFF), (0x0302, 0x02)])
    goes o 0x1234 [(.read, 0x0300), (.read, 0x0301), (.read, 0x0302), (.read, 0x02FF), (.read, 0x0200)] ∧
      holds o regs0 [] := by
  decide

/-- T100: BPL not taken (N=1). -/
theorem test_T100_bpl :
    let o := step (before 0x0300 { regs0 with p := { regs0.p with n := true } } [(0x0300, 0x10), (0x0301, 0x05)])
    goes o 0x0302 [(.read, 0x0300), (.read, 0x0301)] ∧
      holds o { regs0 with p := { regs0.p with n := true } } [] := by
  decide

/-- T101: BPL taken, same page. -/
theorem test_T101_bpl :
    let o := step (before 0x0300 regs0 [(0x0300, 0x10), (0x0301, 0x05)])
    goes o 0x0307 [(.read, 0x0300), (.read, 0x0301), (.read, 0x0302)] ∧
      holds o regs0 [] := by
  decide

/-- T102: BMI taken backward, same page. -/
theorem test_T102_bmi :
    let o := step (before 0x0310 { regs0 with p := { regs0.p with n := true } } [(0x0310, 0x30), (0x0311, 0xFB)])
    goes o 0x030D [(.read, 0x0310), (.read, 0x0311), (.read, 0x0312)] ∧
      holds o { regs0 with p := { regs0.p with n := true } } [] := by
  decide

/-- T103: BMI not taken. -/
theorem test_T103_bmi :
    let o := step (before 0x0310 regs0 [(0x0310, 0x30), (0x0311, 0xFB)])
    goes o 0x0312 [(.read, 0x0310), (.read, 0x0311)] ∧
      holds o regs0 [] := by
  decide

/-- T104: BVC taken, crossing forward: c4 at $1001. -/
theorem test_T104_bvc :
    let o := step (before 0x10FD regs0 [(0x10FD, 0x50), (0x10FE, 0x02)])
    goes o 0x1101 [(.read, 0x10FD), (.read, 0x10FE), (.read, 0x10FF), (.read, 0x1001)] ∧
      holds o regs0 [] := by
  decide

/-- T105: BVC not taken. -/
theorem test_T105_bvc :
    let o := step (before 0x10FD { regs0 with p := { regs0.p with v := true } } [(0x10FD, 0x50), (0x10FE, 0x02)])
    goes o 0x10FF [(.read, 0x10FD), (.read, 0x10FE)] ∧
      holds o { regs0 with p := { regs0.p with v := true } } [] := by
  decide

/-- T106: BVS taken, crossing backward: c4 at $20FE. -/
theorem test_T106_bvs :
    let o := step (before 0x2000 { regs0 with p := { regs0.p with v := true } } [(0x2000, 0x70), (0x2001, 0xFC)])
    goes o 0x1FFE [(.read, 0x2000), (.read, 0x2001), (.read, 0x2002), (.read, 0x20FE)] ∧
      holds o { regs0 with p := { regs0.p with v := true } } [] := by
  decide

/-- T107: BVS not taken. -/
theorem test_T107_bvs :
    let o := step (before 0x2000 regs0 [(0x2000, 0x70), (0x2001, 0xFC)])
    goes o 0x2002 [(.read, 0x2000), (.read, 0x2001)] ∧
      holds o regs0 [] := by
  decide

/-- T108: BCC taken, operand $00: 3 cycles, PC=PC0+2. -/
theorem test_T108_bcc :
    let o := step (before 0x0300 regs0 [(0x0300, 0x90)])
    goes o 0x0302 [(.read, 0x0300), (.read, 0x0301), (.read, 0x0302)] ∧
      holds o regs0 [] := by
  decide

/-- T109: BCC not taken. -/
theorem test_T109_bcc :
    let o := step (before 0x0300 { regs0 with p := { regs0.p with c := true } } [(0x0300, 0x90)])
    goes o 0x0302 [(.read, 0x0300), (.read, 0x0301)] ∧
      holds o { regs0 with p := { regs0.p with c := true } } [] := by
  decide

/-- T111: BCS not taken. -/
theorem test_T111_bcs :
    let o := step (before 0x0300 regs0 [(0x0300, 0xB0), (0x0301, 0xFE)])
    goes o 0x0302 [(.read, 0x0300), (.read, 0x0301)] ∧
      holds o regs0 [] := by
  decide

/-- T118: BCS to itself at $02FE (operand $FE): Pn=$0300, target $02FE: crossing, 4 cycles. -/
theorem test_T118_bcs :
    let o := step (before 0x02FE { regs0 with p := { regs0.p with c := true } } [(0x02FE, 0xB0), (0x02FF, 0xFE)])
    goes o 0x02FE [(.read, 0x02FE), (.read, 0x02FF), (.read, 0x0300), (.read, 0x03FE)] ∧
      holds o { regs0 with p := { regs0.p with c := true } } [] := by
  decide

/-- T113: BNE taken, operand $80 (largest backward), crossing. -/
theorem test_T113_bne :
    let o := step (before 0x0300 regs0 [(0x0300, 0xD0), (0x0301, 0x80)])
    goes o 0x0282 [(.read, 0x0300), (.read, 0x0301), (.read, 0x0302), (.read, 0x0382)] ∧
      holds o regs0 [] := by
  decide

/-- T114: BNE not taken. -/
theorem test_T114_bne :
    let o := step (before 0x0300 { regs0 with p := { regs0.p with z := true } } [(0x0300, 0xD0), (0x0301, 0x80)])
    goes o 0x0302 [(.read, 0x0300), (.read, 0x0301)] ∧
      holds o { regs0 with p := { regs0.p with z := true } } [] := by
  decide

/-- T115: BEQ taken at $FFFD: wraps past $FFFF, c4 at $FF0F. -/
theorem test_T115_beq :
    let o := step (before 0xFFFD { regs0 with p := { regs0.p with z := true } } [(0xFFFD, 0xF0), (0xFFFE, 0x10)])
    goes o 0x000F [(.read, 0xFFFD), (.read, 0xFFFE), (.read, 0xFFFF), (.read, 0xFF0F)] ∧
      holds o { regs0 with p := { regs0.p with z := true } } [] := by
  decide

/-- T116: BEQ not taken. -/
theorem test_T116_beq :
    let o := step (before 0xFFFD regs0 [(0xFFFD, 0xF0), (0xFFFE, 0x10)])
    goes o 0xFFFF [(.read, 0xFFFD), (.read, 0xFFFE)] ∧
      holds o regs0 [] := by
  decide

/-- T120: opcode $02 has no row. -/
theorem test_T120_noRow02 :
    step (before 0x0300 regs0 [(0x0300, 0x02)]) =
      .refused (.unlistedOpcode 0x02) := rfl

/-- T122: opcode $80 has no row. -/
theorem test_T122_noRow80 :
    step (before 0x0300 regs0 [(0x0300, 0x80)]) =
      .refused (.unlistedOpcode 0x80) := rfl

/-! ## The platform (R38) -/

/-- R38: a write to read-only memory is an access that changes nothing: STA $0301 at $0300. -/
theorem test_platform_readOnly :
    let o := step (onPlatform { regs0 with a := 0x55 } [(0x0300, 0x8D), (0x0301, 0x01), (0x0302, 0x03)])
    goes o 0x0303 [(.read, 0x0300), (.read, 0x0301), (.read, 0x0302), (.write, 0x0301)] ∧ moves o 3 0x55 ∧
      holds o { regs0 with a := 0x55 } [(0x0301, 0x01)] := by
  decide

/-- R36, R38: a device answers from the accesses before the read, newest first: EOR $4000,X with X = $80 reads $4080 once. -/
theorem test_platform_device : ∃ t, step (onPlatform { regs0 with x := 0x80 } [(0x0300, 0x5D), (0x0302, 0x40)]) = .next t ∧
    t.bus.head? = some (rd 0x4080 (Config.deviceRead [rd 0x0302 0x40, rd 0x0301 0x00, rd 0x0300 0x5D] 0x4080)) := ⟨_, rfl, rfl⟩

/-- R37, R38: a device sees both writes of INC $4000, and memory is as before. -/
theorem test_platform_device_rmw : ∃ t, step (onPlatform regs0 [(0x0300, 0xEE), (0x0302, 0x40)]) = .next t ∧
    t.trace.map (fun e => (e.kind, e.addr)) =
      [(.read, 0x0300), (.read, 0x0301), (.read, 0x0302), (.read, 0x4000), (.write, 0x4000), (.write, 0x4000)] ∧
    t.mem = [(0x0300, 0xEE), (0x0302, 0x40)] := ⟨_, rfl, rfl, rfl⟩

/-- U8, R38: a read where nothing stands is a draw of its own. -/
theorem test_platform_unpopulated : ∃ t, step (onPlatform regs0 [(0x0300, 0xAD), (0x0302, 0x80)]) = .next t ∧
    t.bus.head? = some (rd 0x8000 (Config.unpopulatedRead [rd 0x0302 0x80, rd 0x0301 0x00, rd 0x0300 0xAD] 0x8000)) :=
  ⟨_, rfl, rfl⟩

/-! ## Witnesses: states and operands that meet the hypotheses of the statements -/

/-- Decode, step and invariants at the top of the address space: PHA at $FFFF. -/
def atTop : State := before 0xFFFF regs0 [(0xFFFF, 0x48)]

/-- A three-byte instruction whose bytes lie at $FFFE, $FFFF and $0000: LDA $1234. -/
def acrossTop : State := before 0xFFFE regs0 [(0x0000, 0x12), (0xFFFE, 0xAD), (0xFFFF, 0x34)]

theorem witness_DecodedBytesAreTheEncoding :
    decode [0xAD, 0x00, 0x20, 0x7F] = .ok (.ldaAbs 0x2000, [0x7F]) := rfl

theorem witness_UnlistedOpcodesAreRefused_first_and_last :
    decode [0x02] = .error (.unlistedOpcode 0x02) ∧ decode [0xFA, 0x00] = .error (.unlistedOpcode 0xFA) := ⟨rfl, rfl⟩

theorem witness_UnlistedOpcodesAreRefused_step :
    (before 0xFFFF regs0 [(0xFFFF, 0xFA)]).busRead (before 0xFFFF regs0 [(0xFFFF, 0xFA)]).pc = 0xFA := by decide

theorem witness_UnlistedOpcodesAreRefused_listed :
    decode [0x00, 0x12, 0x34] = .ok (.brk, [0x12, 0x34]) ∧ decode [0xFF, 0x12, 0x34] = .ok (.isbAbsX 0x3412, []) := ⟨rfl, rfl⟩

theorem witness_HowARunEnds_error :
    decode (fetchBytes (before 0x0300 regs0 [(0x0300, 0x02)])) = .error (.unlistedOpcode 0x02) := rfl

theorem witness_HowARunEnds_goes_on : (before 0x0300 regs0 []).pc ≠ 0x0301 := by decide

theorem witness_StepRunsTheDecodedInstruction :
    decode [acrossTop.busRead acrossTop.pc, (acrossTop.afterRead acrossTop.pc).busRead (acrossTop.pc + 1),
      ((acrossTop.afterRead acrossTop.pc).afterRead (acrossTop.pc + 1)).busRead (acrossTop.pc + 2)] =
        .ok (.ldaAbs 0x1234, []) := rfl

theorem witness_TheFetchRowsGetTheEncoding : decode (fetchBytes acrossTop) = .ok (.ldaAbs 0x1234, []) ∧
    ∃ t, step acrossTop = .next t := ⟨rfl, _, rfl⟩

/-- The clause of JSR. -/
theorem witness_TheFetchRowsGetTheEncoding_jsr :
    let s := before 0x0300 regs0 [(0x0300, 0x20), (0x0301, 0x34), (0x0302, 0x12)]
    decode (fetchBytes s) = .ok (.jsr 0x1234, []) ∧ ∃ t, step s = .next t := ⟨rfl, _, rfl⟩

theorem witness_MemoryHoldingAnInstructionRunsIt :
    (∀ k < (encode (.ldaAbs 0x1234)).length, Backed acrossTop (acrossTop.pc + BitVec.ofNat 16 k)) ∧
    encode (.ldaAbs 0x1234) <+: [readByte acrossTop.mem acrossTop.pc, readByte acrossTop.mem (acrossTop.pc + 1),
      readByte acrossTop.mem (acrossTop.pc + 2)] := ⟨fun _ _ => .inl rfl, [], rfl⟩

/-- The word of LDA $1234; the state it is loaded into has no memory at all. -/
theorem witness_LoadedWordIsTheNextInstruction :
    decodeTableWord 24 0x1234AD = some (.ldaAbs 0x1234) ∧
      ¬ Backed ((before 0xFFFE regs0 []).setPlatform [⟨0x0000, 0xFFFF, .unpopulated⟩]) 0xFFFE := by
  refine ⟨by decide, ?_⟩
  unfold Backed
  decide

theorem witness_StepKeepsTheInvariant : MachineInv atTop ∧ ∃ t, step atTop = .next t :=
  ⟨⟨by decide, rfl, rfl⟩, _, rfl⟩

theorem witness_BusTraceExplainsMemory : ∃ t, step acrossTop = .next t := ⟨_, rfl⟩

theorem witness_EveryReadIsAnsweredByThePlatform :
    ∃ t, step (onPlatform regs0 [(0x0300, 0xAD), (0x0302, 0x40)]) = .next t := ⟨_, rfl⟩

/-- Each clause of that statement, at the first and the last address of its region, and plain memory beside them. -/
theorem witness_EveryReadIsAnsweredByThePlatform_kinds :
    [0x02FF, 0x0300, 0x0302, 0x0303, 0x3FFF, 0x4000, 0x40FF, 0x4100, 0x7FFF, 0x8000, 0x8FFF, 0x9000, 0xFFFD, 0xFFFE, 0xFFFF].map
        (regionKind (onPlatform regs0 []).platform) =
      [.plain, .readOnly, .readOnly, .plain, .plain, .device, .device, .plain, .plain, .unpopulated, .unpopulated, .plain,
        .plain, .readOnly, .readOnly] := by
  decide

theorem witness_EveryStepFetchesAtPcAndTakesTwoToEightAccesses : ∃ t, step atTop = .next t := ⟨_, rfl⟩

/-- The longest and the shortest step make 8 and 2 accesses. -/
theorem witness_EveryStep_bounds :
    (match step (before 0x0300 regs0 [(0x0300, 0xC3)]) with | .next t => t.trace.length | _ => 0) = 8 ∧
      (match step (before 0x0300 regs0 [(0x0300, 0xEA)]) with | .next t => t.trace.length | _ => 0) = 2 := by
  decide

theorem witness_ExactlyTheUnstableRowsStop :
    (∃ t, exec (.ldaAbsX 0x20FF) atTop = .next t) ∧ exec (.laeAbsY 0x2000) atTop = .refused (.unstableOpcode 0xBB) :=
  ⟨⟨_, rfl⟩, rfl⟩

theorem witness_SequentialInstructionsAdvancePcByTheirLength :
    (∃ t, exec (.ldaAbs 0x1234) acrossTop = .next t) ∧
      (Instr.ldaAbs 0x1234).mnemonic ∉ [Mnemonic.brk, .rti, .rts, .jsr, .jmp] ∧ (Instr.ldaAbs 0x1234).mode ≠ .relative :=
  ⟨⟨_, rfl⟩, by decide, by decide⟩

/-- JMP meets the three clauses of the frame at once. -/
theorem witness_TierOneAndTwoRegisterFrame :
    (∃ t, exec (.jmpAbs 0x1234) atTop = .next t) ∧ (Instr.jmpAbs 0x1234).mnemonic ≠ .pla ∧
      (Instr.jmpAbs 0x1234).mnemonic ∉ [Mnemonic.pla, .plp, .rti, .brk] ∧
      (Instr.jmpAbs 0x1234).mnemonic ∉ [Mnemonic.brk, .rti, .rts, .pha, .php, .pla, .plp, .jsr] :=
  ⟨⟨_, rfl⟩, by decide, by decide, by decide⟩

/-- PHA writes, at S = $00, the lowest byte of the stack page. -/
theorem witness_StackFamilyWritesStayInPageOne_push :
    let s := before 0x0300 { regs0 with s := 0x00 } []
    ∃ t, exec .pha s = .next t ∧ t.trace = s.trace ++ [rd 0x0300 0x00, rd 0x0301 0x00, wr 0x0100 0x00] ∧
      (wr 0x0100 0x00).kind = .write ∧ highByte 0x0200 ≠ 0x01 := ⟨_, rfl, by decide, rfl, by decide⟩

theorem witness_StackFamilyWritesStayInPageOne_pull :
    (∃ t, exec .rti atTop = .next t ∧ t.trace = atTop.trace ++ t.trace) ∧
      Instr.rti.mnemonic ∈ [Mnemonic.rti, .rts, .pla, .plp] := ⟨⟨_, rfl, rfl⟩, by decide⟩

/-- The last clause of the JSR statement: the pushes miss the operand, whose high byte stands there. -/
theorem witness_JsrPushesAndJumpsWithTheLateHighByte :
    let s := before 0x0300 regs0 [(0x0302, 0x12)]
    Backed s (s.pc + 2) ∧ s.pc + 2 ∉ [stackAddr s.regs.s, stackAddr (s.regs.s - 1)] ∧
      readByte s.mem (s.pc + 2) = highByte 0x1234 := ⟨.inl rfl, by decide, by decide⟩

theorem witness_JsrPushesAndJumpsWithTheLateHighByte_step :
    (before 0x0300 regs0 [(0x0300, 0x20)]).busRead (before 0x0300 regs0 [(0x0300, 0x20)]).pc = 0x20 := by decide

/-- The hypothesis on the stack page, on a platform that is not plain memory everywhere. -/
theorem witness_PushAndPullPairs : ∀ b : Byte, Plain (onPlatform regs0 []) (stackAddr b) := by
  unfold Plain
  decide

/-- The clauses of the stack statements about memory at the vectors and in the stack page. -/
theorem witness_Backed_clauses : Backed (onPlatform regs0 []) 0xFFFE ∧ Backed (onPlatform regs0 []) 0xFFFF ∧
    Backed (onPlatform regs0 []) 0x0100 ∧ Backed (onPlatform regs0 []) 0x01FF := ⟨.inr rfl, .inr rfl, .inl rfl, .inl rfl⟩

theorem witness_JmpAbsoluteLoadsPc :
    (before 0x0300 regs0 [(0x0300, 0x4C)]).busRead (before 0x0300 regs0 [(0x0300, 0x4C)]).pc = 0x4C := by decide

/-- The two cases of a late carry, at their boundary: low bytes whose sum is 255 and 256 (T61, T63 run them). -/
theorem witness_indexed_read_cases : ¬256 ≤ (lowByte 0x20F0).toNat + (0x0F : Byte).toNat ∧
    256 ≤ (lowByte 0x20F0).toNat + (0x10 : Byte).toNat := by decide

/-- The two cases of a taken branch, at their boundary: displacement $7F from $0380 stays in the page, from $0381 it leaves it. -/
theorem witness_branch_cases : highByte (0x0380 + sext16 0x7F) = highByte 0x0380 ∧
    highByte (0x0381 + sext16 0x7F) ≠ highByte 0x0381 := by decide

end Sys2Proof.Tests
end

section
/-! SUPPORT. The state between instructions (spec/10_state.md): the invariant of a step (R19, R20), the byte image of P (R16, R17),
PC after an instruction that is no control transfer (R14), and the registers that the stack instructions, JMP and the branches
leave alone (R12, R13, R18). What one row of a cycle table does to PC and to each register is said first; the statements about
instructions follow from the rows that the instruction runs. -/

namespace Sys2Proof.Machine

open Sys2Proof.Safety

/-! ## The invariant (R19, R20) -/

/-- A step that answers a next state is the execution of some instruction. -/
theorem exec_of_step_next {s t : State} (h : step s = .next t) : ∃ i, exec i s = .next t := by
  unfold step at h
  split at h
  · exact ⟨_, h⟩
  · cases h

/-- Every instruction ends at a boundary, and its rows keep memory canonical. -/
theorem exec_next_machineInv {i : Instr} {s t : State} (hwf : s.mem.wf = true) (h : exec i s = .next t) : MachineInv t := by
  have hrows := exec_rows i s
  rw [h] at hrows
  obtain ⟨k, ks, r, rfl, -, -⟩ := hrows
  exact ⟨runRows_wf (.fetchOpcode :: k :: ks) hwf, rfl, rfl⟩

/-! ## The byte image of P (R16, R17) -/

/-- R16: the bits of the pushed image, bit 5 set and bit 4 the argument. -/
theorem pushByte_bits (p : Flags) (b : Bool) :
    (pushByte p b)[7] = p.n ∧ (pushByte p b)[6] = p.v ∧ (pushByte p b)[5] = true ∧ (pushByte p b)[4] = b ∧
      (pushByte p b)[3] = p.d ∧ (pushByte p b)[2] = p.i ∧ (pushByte p b)[1] = p.z ∧ (pushByte p b)[0] = p.c := by
  obtain ⟨n, v, d, i, z, c⟩ := p
  revert n v b d i z c
  decide

theorem pushByte_toNat (p : Flags) (b : Bool) : (pushByte p b).toNat =
    128 * p.n.toNat + 64 * p.v.toNat + 32 + 16 * b.toNat + 8 * p.d.toNat + 4 * p.i.toNat + 2 * p.z.toNat + p.c.toNat := by
  obtain ⟨n, v, d, i, z, c⟩ := p
  revert n v b d i z c
  decide

theorem pullP_pushByte (p : Flags) (b : Bool) : pullP (pushByte p b) = p := by
  simp [pullP, pushByte_bits]

/-- Q7: what a push makes of a pulled byte differs from it in bits 5 and 4 alone. -/
theorem pushByte_pullP (v : Byte) : pushByte (pullP v) true = v ||| 0x30 := by
  apply BitVec.eq_of_getElem_eq
  intro k hk
  interval_cases k <;> simp [pushByte_bits, pullP]

/-! ## The accesses of rows without a marker -/

/-- The bus accesses that rows make in order when each of them is executed (R1). -/
def accessesOf : List Cycle → State → List BusEvent
  | [], _ => []
  | k :: ks, s => cycleAccess k s :: accessesOf ks (runCycle k s)

theorem runRows_trace_of_unmarked {ks : List Cycle} (h : ∀ k ∈ ks, ∀ u, cycleHappens k u = true) (s : State) :
    (runRows ks s).trace = s.trace ++ accessesOf ks s := by
  induction ks generalizing s with
  | nil => simp [runRows, accessesOf]
  | cons k ks ih =>
    obtain ⟨hk, hks⟩ := List.forall_mem_cons.1 h
    rw [runRows, if_pos (hk s), ih hks, runCycle_trace, List.append_assoc]
    rfl

/-- BRK is the run of its table: the opcode fetch, the padding byte, and the rows of the trap (R71, R141). -/
theorem exec_brk_eq_runPlain (s : State) : exec .brk s =
    runPlain [.fetchOpcode, .skipNext, .pushPch, .pushPcl, .pushP, .fetchVectorLow, .fetchVectorHigh] s := rfl

/-- RTI is the run of its table: the opcode fetch, the dummy read, and the rows of the return (R72, R145). -/
theorem exec_rti_eq_runPlain (s : State) : exec .rti s =
    runPlain [.fetchOpcode, .readNext, .incrementS, .pullPIncrementS, .pullPclIncrementS, .pullPch] s := rfl

/-- An instruction whose rows have no marker ends with the accesses of those rows added to the trace. -/
theorem runPlain_trace_of_unmarked {ks : List Cycle} (h : ∀ k ∈ ks, ∀ u, cycleHappens k u = true) (s : State) :
    ∃ t, runPlain ks s = .next t ∧ t.trace = s.trace ++ accessesOf ks s :=
  ⟨_, rfl, runRows_trace_of_unmarked h s⟩

/-- R71: the fifth access of BRK pushes the flag image. -/
theorem exec_brk_pushes_flags (s : State) : ∃ t es, exec .brk s = .next t ∧ t.trace = s.trace ++ es ∧
    es[4]? = some (wr (stackAddr (s.regs.s - 2)) (pushByte s.regs.p true)) := by
  rw [exec_brk_eq_runPlain]
  obtain ⟨t, ht, htrace⟩ := runPlain_trace_of_unmarked
    (ks := [.fetchOpcode, .skipNext, .pushPch, .pushPcl, .pushP, .fetchVectorLow, .fetchVectorHigh]) (by simp [cycleHappens]) s
  refine ⟨t, _, ht, htrace, ?_⟩
  rw [show s.regs.s - 2 = s.regs.s - 1 - 1 by rw [BitVec.sub_sub]; rfl]
  rfl

/-- R75: the third access of PHP pushes the flag image. -/
theorem exec_php_pushes_flags (s : State) : ∃ t es, exec .php s = .next t ∧ t.trace = s.trace ++ es ∧
    es[2]? = some (wr (stackAddr s.regs.s) (pushByte s.regs.p true)) := by
  obtain ⟨t, ht, htrace⟩ := runPlain_trace_of_unmarked (ks := [.fetchOpcode, .readNext, .pushP]) (by simp [cycleHappens]) s
  exact ⟨t, _, ht, htrace, rfl⟩

/-! ## PC (R14) -/

/-- By how many bytes a row increments PC, or none where it loads PC with something else. -/
def Cycle.pcStep : Cycle → Option Nat
  | .fetchOpcode | .skipNext | .incrementPc | .fetchLow _ | .fetchHigh _ | .fetchValue _ | .fetchZeroPage _
  | .fetchHighAddIndex _ _ | .fetchPointer _ | .fetchOperand _ | .fetchPointerLow _ | .fetchPointerHigh _ => some 1
  | .fetchVectorLow | .fetchVectorHigh | .pullPclIncrementS | .pullPch | .jumpHigh _ | .jumpHighFromBus
  | .addOperandIfTaken _ | .fixPchIfCrossed | .fetchPchCopyLatch => none
  | _ => some 0

/-- The same of a list of rows, each of them executed: none where one of them loads PC. -/
def rowsPcStep : List Cycle → Option Nat
  | [] => some 0
  | k :: ks => k.pcStep.bind fun a => (rowsPcStep ks).map fun b => a + b

theorem runCycle_pc {k : Cycle} {n : Nat} (h : k.pcStep = some n) (s : State) :
    (runCycle k s).pc = s.pc + BitVec.ofNat 16 n := by
  cases k <;> cases h <;> simp [runCycle, cycleWrites, cycleCommit]

/-- The only marked row that does not load PC, the re-read of an indexed Read, does not increment it either. -/
theorem pcStep_of_skipped {k : Cycle} {n : Nat} {s : State} (h : k.pcStep = some n) (hskip : cycleHappens k s = false) :
    n = 0 := by
  cases k
  case rereadIfCrossed =>
    cases h
    rfl
  case addOperandIfTaken | fixPchIfCrossed => cases h
  all_goals cases hskip

theorem runRows_pc {ks : List Cycle} {n : Nat} (h : rowsPcStep ks = some n) (s : State) :
    (runRows ks s).pc = s.pc + BitVec.ofNat 16 n := by
  induction ks generalizing s n with
  | nil =>
    cases h
    exact (BitVec.add_zero s.pc).symm
  | cons k ks ih =>
    simp only [rowsPcStep, Option.bind_eq_some_iff, Option.map_eq_some_iff] at h
    obtain ⟨a, hk, b, hks, rfl⟩ := h
    rw [runRows]
    split
    · rw [ih hks, runCycle_pc hk, BitVec.add_assoc, ← BitVec.ofNat_add]
    · rename_i hskip
      have ha := pcStep_of_skipped hk (Bool.eq_false_of_not_eq_true hskip)
      rw [ih hks, ha, Nat.zero_add]

/-- If the answer is a next state, its PC is `n` bytes further on. -/
def AdvancesPc (n : Nat) (s : State) (o : Out) : Prop := ∀ t, o = .next t → t.pc = s.pc + BitVec.ofNat 16 n

section
variable {n : Nat} {rows : List Cycle} {s : State} {m : Mnemonic}

theorem runPlain_advancesPc (h : rowsPcStep rows = some n) : AdvancesPc n s (runPlain rows s) := by
  rintro t ⟨⟩
  exact runRows_pc h s

theorem runRead_advancesPc (h : rowsPcStep rows = some n) : AdvancesPc n s (runRead m rows s) := by
  rintro t ⟨⟩
  exact runRows_pc h s

theorem runImplied_advancesPc : AdvancesPc 1 s (runImplied m s) := by
  rintro t ⟨⟩
  exact runRows_pc (ks := [.fetchOpcode, .readNext]) rfl s

theorem runImmediate_advancesPc {v : Byte} : AdvancesPc 2 s (runImmediate m v s) := by
  rintro t ⟨⟩
  exact runRows_pc (ks := [.fetchOpcode, .fetchValue v]) rfl s

theorem refused_advancesPc {r : Refusal} : AdvancesPc n s (.refused r) := nofun

end

/-- R14, the table of net advances: every instruction that is no control transfer increments PC once for each of its bytes.
The cases are the ways an instruction runs its rows: refused, implied, immediate, by its rows alone (the pushes and pulls, Write and
Read-Modify-Write), and Read, which remains. -/
theorem exec_advancesPc (i : Instr) (s : State) (hm : i.mnemonic ∉ [Mnemonic.brk, .rti, .rts, .jsr, .jmp])
    (hr : i.mode ≠ .relative) : AdvancesPc (encode i).length s (exec i s) := by
  cases i
  case brk | rti | rts | jsr | jmpAbs | jmpInd => exact absurd (decide_eq_false hm) Bool.noConfusion
  case bpl | bmi | bvc | bvs | bcc | bcs | bne | beq => exact absurd rfl hr
  case shaIndY | shaAbsY | shxAbsY | shyAbsX | shsAbsY | laeAbsY => exact refused_advancesPc
  case aslAcc | clc | rolAcc | sec | lsrAcc | cli | rorAcc | sei | dey | txa | tya | txs | tay | tax | clv | tsx | iny | dex |
    cld | inx | nop | sed =>
    exact runImplied_advancesPc
  case oraImm | andImm | eorImm | adcImm | ldyImm | ldxImm | ldaImm | cpyImm | cmpImm | cpxImm | sbcImm =>
    exact runImmediate_advancesPc
  case staIndX | saxIndX | styZp | staZp | stxZp | saxZp | styAbs | staAbs | stxAbs | saxAbs | staIndY | styZpX | staZpX |
    stxZpY | saxZpY | staAbsY | staAbsX | pha | php | pla | plp | sloIndX | aslZp | sloZp | aslAbs | sloAbs | sloIndY | aslZpX |
    sloZpX | sloAbsY | aslAbsX | sloAbsX | rlaIndX | rolZp | rlaZp | rolAbs | rlaAbs | rlaIndY | rolZpX | rlaZpX | rlaAbsY |
    rolAbsX | rlaAbsX | sreIndX | lsrZp | sreZp | lsrAbs | sreAbs | sreIndY | lsrZpX | sreZpX | sreAbsY | lsrAbsX | sreAbsX |
    rraIndX | rorZp | rraZp | rorAbs | rraAbs | rraIndY | rorZpX | rraZpX | rraAbsY | rorAbsX | rraAbsX | dcpIndX | decZp |
    dcpZp | decAbs | dcpAbs | dcpIndY | decZpX | dcpZpX | dcpAbsY | decAbsX | dcpAbsX | isbIndX | incZp | isbZp | incAbs |
    isbAbs | isbIndY | incZpX | isbZpX | isbAbsY | incAbsX | isbAbsX =>
    exact runPlain_advancesPc rfl
  all_goals exact runRead_advancesPc rfl

/-! ## Registers -/

/-- The row leaves X and Y alone: every row but the one that writes the result of a read-modify-write. -/
def Cycle.keepsXY : Cycle → Bool
  | .writeNew _ => false
  | _ => true

/-- The row leaves A alone. -/
def Cycle.keepsA : Cycle → Bool
  | .writeNew _ | .pullA => false
  | _ => true

/-- The row leaves P alone (R18). -/
def Cycle.keepsP : Cycle → Bool
  | .writeNew _ | .fetchVectorLow | .pullPIncrementS | .pullA | .pullP => false
  | _ => true

/-- The row leaves S alone (R13). -/
def Cycle.keepsS : Cycle → Bool
  | .writeNew _ | .pushPch | .pushPcl | .pushP | .pushA | .incrementS | .pullPIncrementS | .pullPclIncrementS => false
  | _ => true

theorem runCycle_xy {k : Cycle} (h : k.keepsXY = true) (s : State) :
    (runCycle k s).regs.x = s.regs.x ∧ (runCycle k s).regs.y = s.regs.y := by
  cases k
  case writeNew => cases h
  all_goals exact ⟨rfl, rfl⟩

theorem runCycle_a {k : Cycle} (h : k.keepsA = true) (s : State) : (runCycle k s).regs.a = s.regs.a := by
  cases k
  case writeNew | pullA => cases h
  all_goals exact rfl

theorem runCycle_p {k : Cycle} (h : k.keepsP = true) (s : State) : (runCycle k s).regs.p = s.regs.p := by
  cases k
  case writeNew | fetchVectorLow | pullPIncrementS | pullA | pullP => cases h
  all_goals exact rfl

theorem runCycle_s {k : Cycle} (h : k.keepsS = true) (s : State) : (runCycle k s).regs.s = s.regs.s := by
  cases k
  case writeNew | pushPch | pushPcl | pushP | pushA | incrementS | pullPIncrementS | pullPclIncrementS => cases h
  all_goals exact rfl

/-- What each row leaves alone, a run of the rows leaves alone. -/
theorem runRows_keeps {α : Type} (f : Regs → α) {keeps : Cycle → Bool}
    (hrow : ∀ k, keeps k = true → ∀ s, f (runCycle k s).regs = f s.regs) {ks : List Cycle}
    (h : ks.all keeps = true) (s : State) : f (runRows ks s).regs = f s.regs := by
  induction ks generalizing s with
  | nil => rfl
  | cons k ks ih =>
    obtain ⟨hk, hks⟩ := Bool.and_eq_true_iff.1 h
    rw [runRows, ih hks]
    split
    · exact hrow k hk s
    · rfl

/-- The mnemonics of tiers 1 and 2. -/
def controlMnemonics : List Mnemonic :=
  [.brk, .rti, .rts, .pha, .php, .pla, .plp, .jsr, .jmp, .bpl, .bmi, .bvc, .bvs, .bcc, .bcs, .bne, .beq]

/-- R12, R13, R18: an instruction of tier 1 or 2 does what its rows say, and which registers they leave alone. -/
theorem exec_control_rows (i : Instr) (s : State) (h : i.mnemonic ∈ controlMnemonics) :
    ∃ rows, exec i s = runPlain rows s ∧ rows.all Cycle.keepsXY = true ∧
      (i.mnemonic == .pla || rows.all Cycle.keepsA) = true ∧
      ([Mnemonic.pla, .plp, .rti, .brk].contains i.mnemonic || rows.all Cycle.keepsP) = true ∧
      ([Mnemonic.brk, .rti, .rts, .pha, .php, .pla, .plp, .jsr].contains i.mnemonic || rows.all Cycle.keepsS) = true := by
  cases i
  case brk => exact ⟨_, exec_brk_eq_runPlain s, rfl, rfl, rfl, rfl⟩
  case rti => exact ⟨_, exec_rti_eq_runPlain s, rfl, rfl, rfl, rfl⟩
  case rts | pha | php | pla | plp | jsr | jmpAbs | jmpInd | bpl | bmi | bvc | bvs | bcc | bcs | bne | beq =>
    exact ⟨_, rfl, rfl, rfl, rfl, rfl⟩
  all_goals exact absurd (decide_eq_true h) Bool.false_ne_true

end Sys2Proof.Machine
end

section
/-! The statements of the family on the state (spec/10_state.md). -/

namespace Sys2Proof.Proofs

open Sys2Proof.Machine Sys2Proof.Safety

/-- Settles O11: the instruction that the step runs keeps memory canonical, row by row, and ends at a boundary. -/
theorem stepKeepsTheInvariant : Obligations.StepKeepsTheInvariant := by
  intro s t ⟨hwf, _⟩ hstep
  obtain ⟨i, hexec⟩ := exec_of_step_next hstep
  exact exec_next_machineInv hwf hexec

/-- Settles O16, by the increments of PC in the rows of each instruction. -/
theorem sequentialInstructionsAdvancePcByTheirLength : Obligations.SequentialInstructionsAdvancePcByTheirLength :=
  fun i s t hexec hm hr => exec_advancesPc i s hm hr t hexec

/-- Settles O17, by the registers that the rows of each instruction leave alone. -/
theorem tierOneAndTwoRegisterFrame : Obligations.TierOneAndTwoRegisterFrame := by
  intro i s t hexec hm
  obtain ⟨rows, hrows, hxy, ha, hp, hs⟩ := exec_control_rows i s hm
  rw [hrows] at hexec
  cases hexec
  simp only [Bool.or_eq_true, beq_iff_eq, List.contains_iff_mem] at ha hp hs
  exact ⟨runRows_keeps Regs.x (fun _ hk u => (runCycle_xy hk u).1) hxy s,
    runRows_keeps Regs.y (fun _ hk u => (runCycle_xy hk u).2) hxy s,
    fun hne => runRows_keeps Regs.a (fun _ => runCycle_a) (ha.resolve_left hne) s,
    fun hne => runRows_keeps Regs.p (fun _ => runCycle_p) (hp.resolve_left hne) s,
    fun hne => runRows_keeps Regs.s (fun _ => runCycle_s) (hs.resolve_left hne) s⟩

/-- Settles O10. -/
theorem resetMeetsTheInvariant : Obligations.ResetMeetsTheInvariant := ⟨reset_mem_wf, rfl, rfl⟩

/-- Settles O18: the value of the image, and the row of BRK and of PHP that pushes it. -/
theorem pushedImageOfTheFlags : Obligations.PushedImageOfTheFlags :=
  ⟨pushByte_toNat, exec_brk_pushes_flags, exec_php_pushes_flags⟩

/-- Settles O19. -/
theorem pullingInvertsPushingTheFlags : Obligations.PullingInvertsPushingTheFlags :=
  ⟨pullP_pushByte, pushByte_pullP, fun _ => rfl⟩

end Sys2Proof.Proofs
end

section
/-! SUPPORT. The bus trace and memory (spec/20_memory.md): the accesses of a step, replayed, explain the memory it leaves (R38,
R40), and what a replay says of each read in it and of each address after it (R38, U8). -/

namespace Sys2Proof.Machine

open Sys2Proof.Safety

/-! ## The accesses of a step, replayed (R38, R40) -/

/-- R38, R40: what an instruction adds to the trace explains the memory it leaves. -/
theorem exec_next_replay {i : Instr} {s t : State} (h : exec i s = .next t) :
    ∃ es, t.trace = s.trace ++ es ∧ replay s.platform es s.bus s.mem = some t.mem ∧ t.platform = s.platform := by
  have hrows := exec_rows i s
  rw [h] at hrows
  obtain ⟨k, ks, r, rfl, -, -⟩ := hrows
  obtain ⟨es, htrace, -, hreplay⟩ := runRows_accesses (.fetchOpcode :: k :: ks) s
  exact ⟨es, htrace, hreplay, runRows_platform _ s⟩

/-- A replay goes on from what its first part leaves: the history longer by it, and its memory. -/
theorem replay_append (p : Platform) (es fs history : List BusEvent) (m : Memory) :
    replay p (es ++ fs) history m = (replay p es history m).bind (replay p fs (es.reverse ++ history)) := by
  induction es generalizing history m with
  | nil => rfl
  | cons e es ih =>
    obtain ⟨a, kind, b⟩ := e
    rw [List.reverse_cons, List.append_assoc]
    cases kind with
    | read =>
      simp only [List.cons_append, replay]
      split
      · exact ih _ _
      · rfl
    | write => exact ih _ _

/-- A read in a replay gets the byte that the platform answers from the memory and the history that the accesses before it
leave. -/
theorem read_of_replay {p : Platform} {before after history : List BusEvent} {a : Addr} {b : Byte} {m m' : Memory}
    (h : replay p (before ++ rd a b :: after) history m = some m') :
    ∃ m₁, replay p before history m = some m₁ ∧ platformRead p m₁ (before.reverse ++ history) a = b := by
  rw [replay_append, Option.bind_eq_some_iff] at h
  obtain ⟨m₁, hbefore, hread⟩ := h
  rw [replay_rd, Option.ite_none_right_eq_some] at hread
  exact ⟨m₁, hbefore, hread.1⟩

/-! ## The latest write to an address (R38) -/

/-- The byte of the latest write to an address among accesses, or what memory held there before them. -/
def latestWrite (m : Memory) (es : List BusEvent) (a : Addr) : Byte :=
  ((es.reverse.find? fun e => e.kind = .write ∧ e.addr = a).map (·.byte)).getD (readByte m a)

theorem latestWrite_rd (m : Memory) (a b : Addr) (v : Byte) (es : List BusEvent) :
    latestWrite m (rd b v :: es) a = latestWrite m es a := by
  simp [latestWrite, rd, List.find?_append]

/-- A first write to plain memory counts as what memory held before the other accesses. -/
theorem latestWrite_wr {p : Platform} {a : Addr} (ha : regionKind p a = .plain) (m : Memory) (b : Addr) (v : Byte)
    (es : List BusEvent) : latestWrite m (wr b v :: es) a = latestWrite (platformWrite p m b v) es a := by
  simp only [latestWrite, List.reverse_cons, List.find?_append, Option.map_or, Option.getD_or, readByte_platformWrite]
  congr 1
  by_cases hab : a = b
  · subst hab
    simp [wr, ha]
  · simp [wr, hab, Ne.symm hab]

/-- R38: after a replay plain memory holds the latest write, and nothing else has changed. -/
theorem readByte_of_replay {p : Platform} {es history : List BusEvent} {m m' : Memory}
    (h : replay p es history m = some m') (a : Addr) :
    readByte m' a = if regionKind p a = .plain then latestWrite m es a else readByte m a := by
  induction es generalizing history m with
  | nil =>
    cases h
    exact (ite_self _).symm
  | cons e es ih =>
    obtain ⟨b, kind, v⟩ := e
    cases kind with
    | read =>
      obtain ⟨-, hrest⟩ := Option.ite_none_right_eq_some.1 h
      exact (ih hrest).trans (by rw [← latestWrite_rd m a b v]; rfl)
    | write =>
      rw [ih h]
      split
      case isTrue ha => exact (latestWrite_wr ha m b v es).symm
      case isFalse ha =>
        rw [readByte_platformWrite, if_neg]
        rintro ⟨rfl, hb⟩
        exact ha hb

end Sys2Proof.Machine
end

section
/-! SUPPORT. The fetch (spec/20_memory.md R35, R43): bytes that decode are the encoding of the instruction (spec/30_encoding.md
R50, R54, R56), and the rows that an instruction begins with get these bytes from the bus. -/

namespace Sys2Proof

open Sys2Proof.Machine

/-! ## The bytes of an instruction (R50, R53, R56) -/

/-- The instruction that a row makes of the operand it asks for. -/
def Shape.fill : Shape → Byte → Addr → Instr
  | .alone i, _, _ => i
  | .byte f, x, _ => f x
  | .word f, _, a => f a

/-- The bytes of that operand. -/
def Shape.operandBytes : Shape → Byte → Addr → List Byte
  | .alone _, _, _ => []
  | .byte _, x, _ => [x]
  | .word _, _, a => [lowByte a, highByte a]

/-- R56: in the row of each of the 256 opcode bytes, the bytes of the instruction are that byte and its operand's. -/
theorem encode_fill {b : Byte} {sh : Shape} (h : opcodeMap b = some sh) (x : Byte) (a : Addr) :
    encode (sh.fill x a) = b :: sh.operandBytes x a := by
  obtain ⟨n, hn, rfl⟩ : ∃ n < 256, b = BitVec.ofNat 8 n := ⟨b.toNat, b.isLt, by simp⟩
  interval_cases n <;> cases h <;> rfl

/-- R50, R54, R56: bytes that decode are the bytes of the instruction, and the rest. -/
theorem bytes_of_decode {bs rest : List Byte} {i : Instr} (h : decode bs = .ok (i, rest)) : bs = encode i ++ rest := by
  cases bs with
  | nil => cases h
  | cons b bs =>
    simp only [decode] at h
    split at h
    · cases h
    · rename_i hmap
      cases h
      have henc : encode i = [b] := encode_fill hmap 0 0
      simp [henc]
    · rename_i f hmap
      split at h <;> cases h
      rename_i x
      have henc : encode (f x) = [b, x] := encode_fill hmap x 0
      simp [henc]
    · rename_i f hmap
      split at h <;> cases h
      rename_i lo hi
      have henc : encode (f (addrOf hi lo)) = [b, lowByte (addrOf hi lo), highByte (addrOf hi lo)] := encode_fill hmap 0 _
      simp [henc]

end Sys2Proof

namespace Sys2Proof.Machine

open Sys2Proof.Safety

/-! ## The rows that fetch an instruction (R35, R43) -/

/-- The row gets an instruction byte: it is always executed, and it reads at PC. -/
def Cycle.readsAtPc : Cycle → Bool
  | .fetchOpcode | .readNext | .skipNext | .incrementPc | .fetchLow _ | .fetchHigh _ | .jumpHigh _ | .jumpHighFromBus
  | .fetchValue _ | .fetchZeroPage _ | .fetchHighAddIndex _ _ | .fetchPointer _ | .fetchOperand _ | .fetchPointerLow _
  | .fetchPointerHigh _ => true
  | _ => false

theorem cycle_of_readsAtPc {k : Cycle} (h : k.readsAtPc = true) (s : State) :
    cycleHappens k s = true ∧ cycleAddr k s = s.pc ∧ cycleWrites k s = none := by
  cases k
  case fetchOpcode | readNext | skipNext | incrementPc | fetchLow | fetchHigh | jumpHigh | jumpHighFromBus | fetchValue |
    fetchZeroPage | fetchHighAddIndex | fetchPointer | fetchOperand | fetchPointerLow | fetchPointerHigh =>
    exact ⟨rfl, rfl, rfl⟩
  all_goals cases h

theorem cycleAccess_of_readsAtPc {k : Cycle} (h : k.readsAtPc = true) (s : State) :
    cycleAccess k s = rd s.pc (s.busRead s.pc) := by
  obtain ⟨-, haddr, hread⟩ := cycle_of_readsAtPc h s
  simp [cycleAccess, haddr, hread]

theorem runCycle_mem_of_readsAtPc {k : Cycle} (h : k.readsAtPc = true) (s : State) : (runCycle k s).mem = s.mem := by
  obtain ⟨-, -, hread⟩ := cycle_of_readsAtPc h s
  simp [runCycle_mem, hread]

/-- The first `n` rows fetch: each reads at PC, and each but the last moves PC on by one. -/
def fetchesFirst : Nat → List Cycle → Bool
  | 0, _ => true
  | _ + 1, [] => false
  | n + 1, k :: ks => k.readsAtPc && (n == 0 || k.pcStep == some 1) && fetchesFirst n ks

/-- The accesses of `n` reads at ascending addresses, with what the platform answers. -/
def readsFrom (p : Platform) (m : Memory) : Nat → List BusEvent → Addr → List BusEvent
  | 0, _, _ => []
  | n + 1, history, a =>
    let e := rd a (platformRead p m history a)
    e :: readsFrom p m n (e :: history) (a + 1)

/-- Rows of which the first `n` fetch begin with `n` reads from PC on. -/
theorem runRows_trace_of_fetchesFirst {n : Nat} {ks : List Cycle} (h : fetchesFirst n ks = true) (s : State) :
    ∃ es, (runRows ks s).trace = s.trace ++ readsFrom s.platform s.mem n s.bus s.pc ++ es := by
  induction n generalizing ks s with
  | zero =>
    obtain ⟨es, htrace, -⟩ := runRows_accesses ks s
    exact ⟨es, by rw [htrace, readsFrom, List.append_nil]⟩
  | succ n ih =>
    cases ks with
    | nil => cases h
    | cons k ks =>
      simp only [fetchesFirst, Bool.and_eq_true, Bool.or_eq_true, beq_iff_eq] at h
      obtain ⟨⟨hk, hpc⟩, hks⟩ := h
      obtain ⟨hhappens, -, -⟩ := cycle_of_readsAtPc hk s
      obtain ⟨es, htrace⟩ := ih hks (runCycle k s)
      refine ⟨es, ?_⟩
      rw [runRows, if_pos hhappens, htrace, runCycle_trace, runCycle_platform,
        runCycle_mem_of_readsAtPc hk, runCycle_bus, cycleAccess_of_readsAtPc hk]
      rcases hpc with rfl | hpc
      · simp [readsFrom, State.busRead]
      · simp [readsFrom, State.busRead, runCycle_pc hpc]

/-- If the answer is a next state, its trace goes on with `n` reads from PC on. -/
def FetchesBytes (n : Nat) (s : State) (o : Out) : Prop :=
  ∀ t, o = .next t → ∃ es, t.trace = s.trace ++ readsFrom s.platform s.mem n s.bus s.pc ++ es

theorem refused_fetchesBytes {n : Nat} {s : State} {r : Refusal} : FetchesBytes n s (.refused r) := nofun

theorem runPlain_fetchesBytes {n : Nat} {rows : List Cycle} {s : State} (h : fetchesFirst n rows = true) :
    FetchesBytes n s (runPlain rows s) := by
  rintro t ⟨⟩
  exact runRows_trace_of_fetchesFirst h s

/-- The bytes of an instruction that its first rows read: all, but for JSR's third (R78). -/
def fetchedBytes (i : Instr) : List Byte := (encode i).take (if i.mnemonic = .jsr then 2 else 3)

/-- R35: the first rows of every instruction read its bytes from PC on. A meaning is refused, or it is the run of rows (which BRK
and RTI share out between two operations), at most with the registers set at the end, which adds nothing to the trace. -/
theorem exec_fetchesBytes (i : Instr) (s : State) : FetchesBytes (fetchedBytes i).length s (exec i s) := by
  cases i
  case shaIndY | shaAbsY | shxAbsY | shyAbsX | shsAbsY | laeAbsY => exact refused_fetchesBytes
  case brk => exact exec_brk_eq_runPlain s ▸ runPlain_fetchesBytes rfl
  case rti => exact exec_rti_eq_runPlain s ▸ runPlain_fetchesBytes rfl
  all_goals
    rintro t ⟨⟩
    simp only [State.endInstr_trace, State.setRegs_trace]
    exact runRows_trace_of_fetchesFirst rfl s

/-- The bytes that the decoder looks at are those that reads from PC on get (R6, log 11). -/
theorem readsFrom_of_fetchBytes {s : State} {bs : List Byte} (h : bs <+: fetchBytes s) :
    readsFrom s.platform s.mem bs.length s.bus s.pc = bs.mapIdx fun k b => rd (s.pc + BitVec.ofNat 16 k) b := by
  have hlen : bs.length ≤ 3 := h.length_le
  rw [List.prefix_iff_eq_take] at h
  generalize bs.length = n at h hlen
  subst h
  interval_cases n <;> simp [readsFrom, fetchBytes, State.busRead, BitVec.add_assoc]

/-- R165: a step executes the instruction that the fetched bytes decode to. -/
theorem step_of_decode {s : State} {i : Instr} {rest : List Byte} (h : decode (fetchBytes s) = .ok (i, rest)) :
    step s = exec i s := by
  rw [step, h]

end Sys2Proof.Machine
end

section
/-! The statements of the family on memory (spec/20_memory.md). -/

namespace Sys2Proof.Proofs

open Sys2Proof.Machine Sys2Proof.Safety

/-- Settles O12: the accesses are those of the rows of the instruction that the step runs. -/
theorem busTraceExplainsMemory : Obligations.BusTraceExplainsMemory := by
  intro s t hstep
  obtain ⟨i, hexec⟩ := exec_of_step_next hstep
  exact exec_next_replay hexec

/-- Settles O13: the replay that explains the trace, cut at the read, and taken as a whole. -/
theorem everyReadIsAnsweredByThePlatform : Obligations.EveryReadIsAnsweredByThePlatform := by
  intro s t hstep
  obtain ⟨es, htrace, hreplay, -⟩ := busTraceExplainsMemory s t hstep
  refine ⟨es, htrace, ?_, readByte_of_replay hreplay⟩
  rintro before after a b rfl
  obtain ⟨m, hbefore, hread⟩ := read_of_replay hreplay
  have hm := readByte_of_replay hbefore a
  rw [← hread]
  split
  case h_1 hkind => rw [platformRead_of_backed (.inl hkind), hm, if_pos hkind]; rfl
  case h_2 hkind => rw [platformRead_of_backed (.inr hkind), hm, hkind, if_neg (by decide)]
  case h_3 hkind => exact platformRead_of_device hkind _ _
  case h_4 hkind => exact platformRead_of_unpopulated hkind _ _

/-- Settles O9: the first rows of the instruction read from PC on, and what they get decodes to it. -/
theorem theFetchRowsGetTheEncoding : Obligations.TheFetchRowsGetTheEncoding := by
  intro s t i rest hdecode hstep
  rw [step_of_decode hdecode] at hstep
  have hfetched : fetchedBytes i <+: fetchBytes s :=
    (List.take_prefix _ _).trans ⟨rest, (bytes_of_decode hdecode).symm⟩
  obtain ⟨es, htrace⟩ := exec_fetchesBytes i s t hstep
  rw [readsFrom_of_fetchBytes hfetched] at htrace
  exact ⟨es, htrace⟩

end Sys2Proof.Proofs
end

section
/-! SUPPORT. The decoder and the encoder (spec/30_encoding.md): every instruction fills the row of its opcode byte (R56), a row with
operand bytes behind it decodes to the instruction that fills it (R50, R53), and the opcode bytes without a row are the 31 of R58. -/

namespace Sys2Proof

open Sys2Proof.Machine

/-! ## Rows and the decoder (R50, R53, R56) -/

/-- R56: the opcode map holds a row for every instruction, at its own opcode byte. The cases are the three shapes of a row: no operand, a
16-bit address, and one byte, which remains. -/
theorem exists_row_of_opcode (i : Instr) : ∃ sh x a, opcodeMap i.opcode = some sh ∧ sh.fill x a = i := by
  cases i <;> dsimp only [Instr.opcode]
  case brk | php | aslAcc | clc | plp | rolAcc | sec | rti | pha | lsrAcc | cli | rts | pla | rorAcc | sei | dey | txa | tya | txs |
    tay | tax | clv | tsx | iny | dex | cld | inx | nop | sed =>
    exact ⟨.alone _, 0, 0, rfl, rfl⟩
  case nopAbs a | oraAbs a | aslAbs a | sloAbs a | oraAbsY a | sloAbsY a | nopAbsX1C a | oraAbsX a | aslAbsX a | sloAbsX a |
    jsr a | bitAbs a | andAbs a | rolAbs a | rlaAbs a | andAbsY a | rlaAbsY a | nopAbsX3C a | andAbsX a | rolAbsX a |
    rlaAbsX a | jmpAbs a | eorAbs a | lsrAbs a | sreAbs a | eorAbsY a | sreAbsY a | nopAbsX5C a | eorAbsX a | lsrAbsX a |
    sreAbsX a | jmpInd a | adcAbs a | rorAbs a | rraAbs a | adcAbsY a | rraAbsY a | nopAbsX7C a | adcAbsX a | rorAbsX a |
    rraAbsX a | styAbs a | staAbs a | stxAbs a | saxAbs a | staAbsY a | shsAbsY a | shyAbsX a | staAbsX a | shxAbsY a |
    shaAbsY a | ldyAbs a | ldaAbs a | ldxAbs a | laxAbs a | ldaAbsY a | laeAbsY a | ldyAbsX a | ldaAbsX a | ldxAbsY a |
    laxAbsY a | cpyAbs a | cmpAbs a | decAbs a | dcpAbs a | cmpAbsY a | dcpAbsY a | nopAbsXDC a | cmpAbsX a | decAbsX a |
    dcpAbsX a | cpxAbs a | sbcAbs a | incAbs a | isbAbs a | sbcAbsY a | isbAbsY a | nopAbsXFC a | sbcAbsX a | incAbsX a |
    isbAbsX a =>
    exact ⟨.word _, 0, a, rfl, rfl⟩
  all_goals
    rename_i x
    exact ⟨.byte _, x, 0, rfl, rfl⟩

/-- R50, R53: behind an opcode byte that has a row, the decoder takes the operand bytes that the row asks for. -/
theorem decode_row {b : Byte} {sh : Shape} (h : opcodeMap b = some sh) (x : Byte) (a : Addr) (rest : List Byte) :
    decode (b :: (sh.operandBytes x a ++ rest)) = .ok (sh.fill x a, rest) := by
  cases sh <;> simp [decode, h, Shape.operandBytes, Shape.fill]

/-- R50, R51, R53, R56: decoding the bytes of an instruction gives it back, and what follows them. -/
theorem decode_encode_append (i : Instr) (rest : List Byte) : decode (encode i ++ rest) = .ok (i, rest) := by
  obtain ⟨sh, x, a, hrow, hfill⟩ := exists_row_of_opcode i
  have henc := encode_fill hrow x a
  have hdec := decode_row hrow x a rest
  rw [hfill] at henc hdec
  rw [henc, List.cons_append, hdec]

/-! ## Opcode bytes with and without a row (R58) -/

/-- R58: the opcode bytes without a row. -/
def unlistedOpcodes : List Byte :=
  [ 0x02, 0x0B, 0x12, 0x1A, 0x22, 0x2B, 0x32, 0x3A, 0x42, 0x4B, 0x52, 0x5A, 0x62, 0x6B, 0x72, 0x7A,
    0x80, 0x82, 0x89, 0x8B, 0x92, 0xAB, 0xB2, 0xC2, 0xCB, 0xD2, 0xDA, 0xE2, 0xEB, 0xF2, 0xFA ]

/-- R58: among the 256 bytes, these and only these have no row. -/
theorem opcodeMap_eq_none_iff (b : Byte) : opcodeMap b = none ↔ b ∈ unlistedOpcodes := by
  rw [← Option.isNone_iff_eq_none]
  revert b
  decide

theorem decode_of_unlisted {b : Byte} (h : b ∈ unlistedOpcodes) (rest : List Byte) :
    decode (b :: rest) = .error (.unlistedOpcode b) := by
  simp [decode, (opcodeMap_eq_none_iff b).2 h]

/-- R50: two more bytes are enough for any row. -/
theorem decodes_of_listed {b : Byte} (h : b ∉ unlistedOpcodes) (x y : Byte) (rest : List Byte) :
    ∃ i r, decode (b :: x :: y :: rest) = .ok (i, r) := by
  obtain ⟨sh, hrow⟩ := Option.ne_none_iff_exists'.1 (mt (opcodeMap_eq_none_iff b).1 h)
  cases sh <;> simp [decode, hrow]

/-- R54: the first byte of what decodes is the opcode byte of the instruction. -/
theorem opcode_of_decode {b : Byte} {bs rest : List Byte} {i : Instr} (h : decode (b :: bs) = .ok (i, rest)) : i.opcode = b :=
  (List.cons.inj (bytes_of_decode h)).1.symm

end Sys2Proof

namespace Sys2Proof.Machine

open Sys2Proof.Safety

/-- R58, R166: a step whose fetched bytes are no instruction is refused with the byte at PC. -/
theorem step_of_decode_error {s : State} {e : DecodeError} (h : decode (fetchBytes s) = .error e) :
    step s = .refused (.unlistedOpcode (s.busRead s.pc)) := by
  rw [step, h]
  rfl

/-! ## The NOPs that read memory (R59) -/

/-- The answer is a next state after two reads from PC on and the accesses `es` (which depend on the bytes that they get), with PC as
given, and with every register and every byte of memory as before (R59). -/
def ReadsAndDiscards (s : State) (pc : Addr) (es : Byte → Byte → Byte → List BusEvent) (o : Out) : Prop :=
  ∃ t b0 b1 b2 w v, o = .next t ∧ Ended s t s.regs pc (rd s.pc b0 :: rd (s.pc + 1) b1 :: es b2 w v) ∧ SameOutside [] s t

theorem zeroPageRead_nop_discards (zp : Byte) (s : State) :
    ReadsAndDiscards s (s.pc + 2) (fun _ _ v => [rd (addrOf 0x00 zp) v]) (zeroPageRead .nop zp s) := by
  obtain ⟨t, b0, b1, v, hresult⟩ := zeroPageRead_result .nop zp s
  exact ⟨t, b0, b1, 0, 0, v, hresult⟩

theorem zeroPageIndexedRead_nop_discards (zp : Byte) (s : State) :
    ReadsAndDiscards s (s.pc + 2) (fun b2 _ v => [rd (addrOf 0x00 zp) b2, rd (addrOf 0x00 (zp + s.regs.x)) v])
      (zeroPageIndexedRead .nop .x zp s) := by
  obtain ⟨t, b0, b1, b2, v, hresult⟩ := zeroPageIndexedRead_result .nop .x zp s
  exact ⟨t, b0, b1, b2, 0, v, hresult⟩

theorem absoluteRead_nop_discards (a : Addr) (s : State) :
    ReadsAndDiscards s (s.pc + 3) (fun b2 _ v => [rd (s.pc + 2) b2, rd a v]) (absoluteRead .nop a s) := by
  obtain ⟨t, b0, b1, b2, v, hresult⟩ := absoluteRead_result .nop a s
  exact ⟨t, b0, b1, b2, 0, v, hresult⟩

theorem absoluteIndexedRead_nop_discards (a : Addr) (s : State) :
    ReadsAndDiscards s (s.pc + 3)
      (fun b2 w v => rd (s.pc + 2) b2 ::
        ((if 256 ≤ (lowByte a).toNat + s.regs.x.toNat then [rd (addrOf (highByte a) (lowByte a + s.regs.x)) w] else []) ++
          [rd (a + zext16 s.regs.x) v]))
      (absoluteIndexedRead .nop .x a s) :=
  absoluteIndexedRead_result .nop .x a s

end Sys2Proof.Machine
end

section
/-! The statements of the family on the encoding (spec/30_encoding.md). -/

namespace Sys2Proof.Proofs

open Sys2Proof.Machine Sys2Proof.Safety

/-- Settles O1, by the row that each instruction fills. -/
theorem decodeOfEncodeGivesTheInstruction : Obligations.DecodeOfEncodeGivesTheInstruction := decode_encode_append

/-- Settles O2, by the row of each opcode byte. -/
theorem decodedBytesAreTheEncoding : Obligations.DecodedBytesAreTheEncoding := fun _ _ _ => bytes_of_decode

/-- Settles O4: the decoder, and with it the step, fails exactly where the opcode map has no row. -/
theorem unlistedOpcodesAreRefused : Obligations.UnlistedOpcodesAreRefused := by
  refine ⟨fun _ hb => decode_of_unlisted hb, fun _ hs => step_of_decode_error (decode_of_unlisted hs _), fun b hb x y rest => ?_⟩
  obtain ⟨i, r, hdecode⟩ := decodes_of_listed hb x y rest
  exact ⟨i, r, hdecode, opcode_of_decode hdecode⟩

/-- Settles O53: each NOP runs the Read microsequence of its mode, four modes in all. -/
theorem nopReadsDiscardTheByte : Obligations.NopReadsDiscardTheByte := by
  intro zp a s
  have hdirect := zeroPageRead_nop_discards zp s
  have hindexed := zeroPageIndexedRead_nop_discards zp s
  have hfar := absoluteRead_nop_discards a s
  have hfarIndexed := absoluteIndexedRead_nop_discards a s
  exact ⟨hdirect, hfar, hindexed, hfarIndexed, hindexed, hfarIndexed, hdirect, hindexed, hfarIndexed, hdirect, hindexed,
    hfarIndexed, hindexed, hfarIndexed, hindexed, hfarIndexed⟩

/-- Settles O3: each sample word is the encoding of its instruction, BRK's followed by the padding byte (R52). -/
theorem sampleWordsDecodeAsTheSpecWritesThem : Obligations.SampleWordsDecodeAsTheSpecWritesThem :=
  ⟨decode_encode_append .pha [], decode_encode_append .aslAcc [], decode_encode_append (.ldaImm 0x10) [],
    decode_encode_append (.ldaZp 0x10) [], decode_encode_append (.ldxZpY 0x10) [], decode_encode_append (.jsr 0x1234) [],
    decode_encode_append (.staAbsX 0x1234) [], decode_encode_append (.bne 0x03) [], decode_encode_append (.ldaIndX 0x10) [],
    decode_encode_append (.ldaIndY 0x10) [], decode_encode_append (.jmpInd 0x1234) [], decode_encode_append .brk [0x00]⟩

end Sys2Proof.Proofs
end

section
/-! SUPPORT. The end of an instruction whose table has no marked row, with all its accesses (spec/00_scope.md R1, R4), and what these
accesses say about memory: the bytes that are written there and nothing else change (R38), a read of memory gets what it holds. -/

namespace Sys2Proof.Machine

open Sys2Proof.Safety

/-! ## Rows without a marker, after the opcode fetch (R4) -/

/-- The row is always executed, and it is not the opcode fetch. -/
def Cycle.follows : Cycle → Bool
  | .fetchOpcode | .rereadIfCrossed | .addOperandIfTaken _ | .fixPchIfCrossed => false
  | _ => true

theorem cycleHappens_of_follows {k : Cycle} (h : k.follows = true) (s : State) : cycleHappens k s = true := by
  cases k
  case rereadIfCrossed | addOperandIfTaken | fixPchIfCrossed => cases h
  all_goals rfl

/-- R19: the opcode fetch alone writes IR. -/
theorem runCycle_ir_of_follows {k : Cycle} (h : k.follows = true) (s : State) : (runCycle k s).ir = s.ir := by
  cases k
  case fetchOpcode => cases h
  all_goals rfl

theorem runRows_ir_of_follows {ks : List Cycle} (h : ks.all Cycle.follows = true) (s : State) : (runRows ks s).ir = s.ir := by
  induction ks generalizing s with
  | nil => rfl
  | cons k ks ih =>
    obtain ⟨hk, hks⟩ := Bool.and_eq_true_iff.1 h
    rw [runRows, if_pos (cycleHappens_of_follows hk s), ih hks, runCycle_ir_of_follows hk]

theorem runRows_replay_accessesOf {ks : List Cycle} (h : ∀ k ∈ ks, ∀ u, cycleHappens k u = true) (s : State) :
    replay s.platform (accessesOf ks s) s.bus s.mem = some (runRows ks s).mem := by
  obtain ⟨es, htrace, -, hreplay⟩ := runRows_accesses ks s
  have hes : es = accessesOf ks s := List.append_cancel_left (htrace.symm.trans (runRows_trace_of_unmarked h s))
  rwa [hes] at hreplay

/-- An instruction of unmarked rows completes, with what its rows leave in the registers and PC, and with one access a row. -/
theorem runPlain_ended {ks : List Cycle} (h : ks.all Cycle.follows = true) (s : State) :
    let rows := .fetchOpcode :: ks
    ∃ t, runPlain rows s = .next t ∧ Ended s t (runRows rows s).regs (runRows rows s).pc (accessesOf rows s) := by
  have hrows : ∀ k ∈ Cycle.fetchOpcode :: ks, ∀ u, cycleHappens k u = true :=
    List.forall_mem_cons.2 ⟨fun _ => rfl, fun k hk => cycleHappens_of_follows (List.all_eq_true.1 h k hk)⟩
  exact ⟨_, rfl, rfl, rfl, runRows_trace_of_unmarked hrows s, runRows_replay_accessesOf hrows s, runRows_platform _ s,
    runRows_ir_of_follows h _, rfl, rfl⟩

/-! ## The addresses that accesses write (R1, R38) -/

/-- The addresses that accesses write, in order. -/
def writtenAt (es : List BusEvent) : List Addr := (es.filter fun e => e.kind = .write).map (·.addr)

@[simp] theorem writtenAt_nil : writtenAt [] = [] := rfl

@[simp] theorem writtenAt_rd_cons (a : Addr) (b : Byte) (es : List BusEvent) : writtenAt (rd a b :: es) = writtenAt es := rfl

@[simp] theorem writtenAt_wr_cons (a : Addr) (b : Byte) (es : List BusEvent) :
    writtenAt (wr a b :: es) = a :: writtenAt es := rfl

theorem mem_writtenAt {es : List BusEvent} {a : Addr} : a ∈ writtenAt es ↔ ∃ e ∈ es, e.kind = .write ∧ e.addr = a := by
  simp [writtenAt, and_assoc]

/-- Accesses that leave an address alone leave the latest write there what it was. -/
theorem latestWrite_append {a : Addr} {fs : List BusEvent} (h : a ∉ writtenAt fs) (m : Memory) (es : List BusEvent) :
    latestWrite m (es ++ fs) a = latestWrite m es a := by
  have hnone : fs.reverse.find? (fun e => e.kind = .write ∧ e.addr = a) = none := by
    simpa [mem_writtenAt] using h
  rw [latestWrite, List.reverse_append, List.find?_append, hnone, Option.none_or]
  rfl

theorem latestWrite_of_not_written {a : Addr} {es : List BusEvent} (h : a ∉ writtenAt es) (m : Memory) :
    latestWrite m es a = readByte m a :=
  latestWrite_append h m []

theorem latestWrite_append_wr {a : Addr} {after : List BusEvent} (h : a ∉ writtenAt after) (m : Memory)
    (before : List BusEvent) (b : Byte) : latestWrite m (before ++ wr a b :: after) a = b := by
  rw [← List.singleton_append, ← List.append_assoc, latestWrite_append h]
  simp [latestWrite, wr]

end Sys2Proof.Machine

namespace Sys2Proof.Safety

open Sys2Proof.Machine

/-! ## Memory after an instruction (R38) -/

section
variable {s t : State} {regs : Regs} {pc : Addr} {es before after : List BusEvent} {a : Addr} {b : Byte}

theorem Ended.readByte_eq (h : Ended s t regs pc es) (a : Addr) :
    readByte t.mem a = if regionKind s.platform a = .plain then latestWrite s.mem es a else readByte s.mem a :=
  readByte_of_replay h.explained a

theorem Ended.sameOutside (h : Ended s t regs pc es) : SameOutside (writtenAt es) s t := by
  intro c hc
  rw [h.readByte_eq, latestWrite_of_not_written hc, ite_self]

/-- The byte written last at an address is the byte stored there. -/
theorem Ended.readByte_of_wr (h : Ended s t regs pc (before ++ wr a b :: after)) (ha : a ∉ writtenAt after) :
    readByte t.mem a = stored s a b := by
  rw [h.readByte_eq, latestWrite_append_wr ha, stored]

/-- A read where memory stands gets the byte that the accesses before it leave there. -/
theorem Ended.byte_of_rd (h : Ended s t regs pc (before ++ rd a b :: after)) (ha : Backed s a) :
    b = if regionKind s.platform a = .plain then latestWrite s.mem before a else readByte s.mem a := by
  obtain ⟨m, hbefore, hread⟩ := read_of_replay h.explained
  rw [← readByte_of_replay hbefore a, ← hread, platformRead_of_backed ha]

theorem Ended.byte_of_rd_first (h : Ended s t regs pc (before ++ rd a b :: after)) (hbefore : a ∉ writtenAt before)
    (ha : Backed s a) : b = readByte s.mem a := by
  rw [h.byte_of_rd ha, latestWrite_of_not_written hbefore, ite_self]

theorem Ended.byte_of_rd_last (h : Ended s t regs pc (before ++ rd a b :: after)) (hafter : a ∉ writtenAt after)
    (ha : Backed s a) : b = readByte t.mem a := by
  rw [h.byte_of_rd ha, h.readByte_eq, latestWrite_append (es := before) (fs := rd a b :: after) hafter]

end

end Sys2Proof.Safety
end

section
/-! SUPPORT. Arithmetic of PC, S and the pushed image, and what the rows of BRK and JSR do, the two of the eight stack instructions
that push more than one byte (spec/40_stack_instructions.md R71, R78). -/

namespace Sys2Proof.Machine

open Sys2Proof.Safety

/-! ## PC, S and the pushed image -/

theorem addr_add_two (a : Addr) : a + 2 = a + 1 + 1 := (BitVec.add_assoc a 1 1).symm

theorem byte_add_two (b : Byte) : b + 2 = b + 1 + 1 := (BitVec.add_assoc b 1 1).symm

theorem byte_add_three (b : Byte) : b + 3 = b + 1 + 1 + 1 := by
  rw [← byte_add_two, BitVec.add_assoc]
  rfl

theorem byte_sub_two (b : Byte) : b - 2 = b - 1 - 1 := by
  rw [BitVec.sub_sub]
  rfl

theorem byte_sub_three (b : Byte) : b - 3 = b - 1 - 1 - 1 := by
  rw [← byte_sub_two, BitVec.sub_sub]
  rfl

theorem byte_ne_sub_one (b : Byte) : b ≠ b - 1#8 := by bv_omega

theorem byte_ne_sub_two (b : Byte) : b ≠ b - 2#8 := by bv_omega

/-- R16, R75: the image that PHP and BRK push, with both bits 5 and 4 set, as a number. -/
theorem pushByte_true_eq (p : Flags) : pushByte p true =
    BitVec.ofNat 8 (128 * p.n.toNat + 64 * p.v.toNat + 0x30 + 8 * p.d.toNat + 4 * p.i.toNat + 2 * p.z.toNat + p.c.toNat) := by
  rw [← BitVec.toNat_inj, pushByte_toNat, BitVec.toNat_ofNat, Nat.mod_eq_of_lt]
  · rfl
  · have := (pushByte p true).isLt
    rw [pushByte_toNat, Bool.toNat_true] at this
    omega

/-- A word whose low byte is loaded first and whose high byte replaces the old one is the word of the two bytes (R71 to R73). -/
theorem addrOf_lowByte_addrOf (hi old lo : Byte) : addrOf hi (lowByte (addrOf old lo)) = addrOf hi lo := by
  rw [lowByte_addrOf]

/-! ## BRK and JSR (R71, R78) -/

/-- R71, R141: BRK ends with these registers, PC and accesses. -/
theorem exec_brk_ended (s : State) :
    let ret := s.pc + 2
    let a0 := stackAddr s.regs.s
    let a1 := stackAddr (s.regs.s - 1)
    let a2 := stackAddr (s.regs.s - 2)
    ∃ t b0 b1 lo hi, exec .brk s = .next t ∧
      Ended s t { s.regs with s := s.regs.s - 3, p := { s.regs.p with i := true } } (addrOf hi lo)
        [rd s.pc b0, rd (s.pc + 1) b1, wr a0 (highByte ret), wr a1 (lowByte ret), wr a2 (pushByte s.regs.p true),
          rd 0xFFFE lo, rd 0xFFFF hi] := by
  intro ret a0 a1 a2
  obtain ⟨t, hexec, hended⟩ := runPlain_ended
    (ks := [.skipNext, .pushPch, .pushPcl, .pushP, .fetchVectorLow, .fetchVectorHigh]) rfl s
  replace hended : Ended s t { s.regs with s := s.regs.s - 1 - 1 - 1, p := { s.regs.p with i := true } }
    (addrOf _ (lowByte (addrOf _ _)))
    [rd s.pc _, rd (s.pc + 1) _, wr a0 (highByte (s.pc + 1 + 1)), wr a1 (lowByte (s.pc + 1 + 1)),
      wr (stackAddr (s.regs.s - 1 - 1)) (pushByte s.regs.p true), rd 0xFFFE _, rd 0xFFFF _] := hended
  rw [addrOf_lowByte_addrOf, ← byte_sub_three, ← byte_sub_two, ← addr_add_two] at hended
  exact ⟨t, _, _, _, _, hexec, hended⟩

/-- R78: JSR ends with these registers, PC and accesses; the last of them is the late read of the high byte. -/
theorem exec_jsr_ended (a : Addr) (s : State) :
    let ret := s.pc + 2
    let a0 := stackAddr s.regs.s
    let a1 := stackAddr (s.regs.s - 1)
    ∃ t b0 b1 b2 hi, exec (.jsr a) s = .next t ∧
      Ended s t { s.regs with s := s.regs.s - 2 } (addrOf hi (lowByte a))
        [rd s.pc b0, rd (s.pc + 1) b1, rd a0 b2, wr a0 (highByte ret), wr a1 (lowByte ret), rd ret hi] := by
  intro ret a0 a1
  obtain ⟨t, hexec, hended⟩ := runPlain_ended
    (ks := [.fetchLow (lowByte a), .internalOperation, .pushPch, .pushPcl, .jumpHighFromBus]) rfl s
  replace hended : Ended s t { s.regs with s := s.regs.s - 1 - 1 } (addrOf _ (lowByte a))
    [rd s.pc _, rd (s.pc + 1) _, rd a0 _, wr a0 (highByte (s.pc + 1 + 1)), wr a1 (lowByte (s.pc + 1 + 1)),
      rd (s.pc + 1 + 1) _] := hended
  rw [← byte_sub_two, ← addr_add_two] at hended
  exact ⟨t, _, _, _, _, hexec, hended⟩

/-- R78: a step whose opcode fetch gets $20 executes JSR with the operand at PC + 1. -/
theorem step_of_opcode_jsr {s : State} (h : s.busRead s.pc = 0x20) :
    ∃ hi, step s = exec (.jsr (addrOf hi ((s.afterRead s.pc).busRead (s.pc + 1)))) s := by
  let lo := (s.afterRead s.pc).busRead (s.pc + 1)
  let hi := ((s.afterRead s.pc).afterRead (s.pc + 1)).busRead (s.pc + 2)
  have hfetch : fetchBytes s = encode (.jsr (addrOf hi lo)) := by
    change [s.busRead s.pc, lo, hi] = [0x20, lowByte (addrOf hi lo), highByte (addrOf hi lo)]
    rw [h, lowByte_addrOf, highByte_addrOf]
  refine ⟨hi, step_of_decode (rest := []) ?_⟩
  rw [hfetch, ← List.append_nil (encode _), decode_encode_append]

end Sys2Proof.Machine
end

section
/-! The statements of the family on the stack instructions, one by one (spec/40_stack_instructions.md R71 to R78). -/

namespace Sys2Proof.Proofs

open Sys2Proof.Machine Sys2Proof.Safety

/-- Settles O23, by the rows of PHA. -/
theorem phaPushesTheAccumulator : Obligations.PhaPushesTheAccumulator := by
  intro s a0
  obtain ⟨t, hexec, hended⟩ := runPlain_ended (ks := [.readNext, .pushA]) rfl s
  replace hended : Ended s t { s.regs with s := s.regs.s - 1 } (s.pc + 1) [rd s.pc _, rd (s.pc + 1) _, wr a0 s.regs.a] := hended
  exact ⟨t, _, _, hexec, hended, hended.readByte_of_wr (before := [_, _]) (by simp), hended.sameOutside⟩

/-- Settles O24, by the rows of PHP. -/
theorem phpPushesTheFlags : Obligations.PhpPushesTheFlags := by
  intro s a0 p image
  obtain ⟨t, hexec, hended⟩ := runPlain_ended (ks := [.readNext, .pushP]) rfl s
  replace hended : Ended s t { s.regs with s := s.regs.s - 1 } (s.pc + 1)
    [rd s.pc _, rd (s.pc + 1) _, wr a0 (pushByte p true)] := hended
  rw [show image = pushByte p true from (pushByte_true_eq p).symm]
  exact ⟨t, _, _, hexec, hended, hended.readByte_of_wr (before := [_, _]) (by simp), hended.sameOutside⟩

/-- Settles O25, by the rows of PLA. -/
theorem plaPullsTheAccumulator : Obligations.PlaPullsTheAccumulator := by
  intro s a1
  obtain ⟨t, hexec, hended⟩ := runPlain_ended (ks := [.readNext, .incrementS, .pullA]) rfl s
  replace hended : Ended s t { s.regs with a := _, s := s.regs.s + 1, p := setNZ s.regs.p _ } (s.pc + 1)
    [rd s.pc _, rd (s.pc + 1) _, rd (stackAddr s.regs.s) _, rd a1 _] := hended
  exact ⟨t, _, _, _, _, hexec, hended, hended.byte_of_rd_first (before := [_, _, _]) (by simp), hended.sameOutside⟩

/-- Settles O26, by the rows of PLP. -/
theorem plpPullsTheFlags : Obligations.PlpPullsTheFlags := by
  intro s a1
  obtain ⟨t, hexec, hended⟩ := runPlain_ended (ks := [.readNext, .incrementS, .pullP]) rfl s
  replace hended : Ended s t { s.regs with s := s.regs.s + 1, p := pullP _ } (s.pc + 1)
    [rd s.pc _, rd (s.pc + 1) _, rd (stackAddr s.regs.s) _, rd a1 _] := hended
  exact ⟨t, _, _, _, _, hexec, hended, hended.byte_of_rd_first (before := [_, _, _]) (by simp), hended.sameOutside⟩

/-- Settles O22, by the rows of RTS, none of which writes. -/
theorem rtsReturnsPastThePulledWord : Obligations.RtsReturnsPastThePulledWord := by
  intro s a1 a2
  obtain ⟨t, hexec, hended⟩ := runPlain_ended
    (ks := [.readNext, .incrementS, .pullPclIncrementS, .pullPch, .incrementPc]) rfl s
  replace hended : Ended s t { s.regs with s := s.regs.s + 1 + 1 } (addrOf _ (lowByte (addrOf _ _)) + 1)
    [rd s.pc _, rd (s.pc + 1) _, rd (stackAddr s.regs.s) _, rd a1 _, rd (stackAddr (s.regs.s + 1 + 1)) _,
      rd (addrOf _ (lowByte (addrOf _ _))) _] := hended
  simp only [addrOf_lowByte_addrOf, ← byte_add_two] at hended
  exact ⟨t, _, _, _, _, _, _, hexec, hended, hended.byte_of_rd_first (before := [_, _, _]) (by simp),
    hended.byte_of_rd_first (before := [_, _, _, _]) (by simp), hended.sameOutside⟩

/-- Settles O21, by the rows of RTI, none of which writes. -/
theorem rtiReturnsFromTheTrap : Obligations.RtiReturnsFromTheTrap := by
  intro s a1 a2 a3
  obtain ⟨t, hexec, hended⟩ := runPlain_ended
    (ks := [.readNext, .incrementS, .pullPIncrementS, .pullPclIncrementS, .pullPch]) rfl s
  replace hended : Ended s t { s.regs with s := s.regs.s + 1 + 1 + 1, p := pullP _ } (addrOf _ (lowByte (addrOf _ _)))
    [rd s.pc _, rd (s.pc + 1) _, rd (stackAddr s.regs.s) _, rd a1 _, rd (stackAddr (s.regs.s + 1 + 1)) _,
      rd (stackAddr (s.regs.s + 1 + 1 + 1)) _] := hended
  rw [addrOf_lowByte_addrOf, ← byte_add_three, ← byte_add_two] at hended
  exact ⟨t, _, _, _, _, _, _, hexec, hended, hended.byte_of_rd_first (before := [_, _, _]) (by simp),
    hended.byte_of_rd_first (before := [_, _, _, _]) (by simp),
    hended.byte_of_rd_first (before := [_, _, _, _, _]) (by simp), hended.sameOutside⟩

/-- Settles O20: the reads at the vector follow three writes in the stack page, which the vector is not in. -/
theorem brkTakesTheTrap : Obligations.BrkTakesTheTrap := by
  intro s ret a0 a1 a2 image
  obtain ⟨t, b0, b1, lo, hi, hexec, hended⟩ := exec_brk_ended s
  have hlow : 0xFFFE ∉ [a0, a1, a2] := by
    simp only [a0, a1, a2, List.mem_cons, List.not_mem_nil, vectorLow_ne_stackAddr, or_self, not_false_eq_true]
  have hhigh : 0xFFFF ∉ [a0, a1, a2] := by
    simp only [a0, a1, a2, List.mem_cons, List.not_mem_nil, vectorHigh_ne_stackAddr, or_self, not_false_eq_true]
  exact ⟨t, _, _, _, _, hexec, hended, hended.byte_of_rd_first (before := [_, _, _, _, _]) hlow,
    hended.byte_of_rd_first (before := [_, _, _, _, _, _]) hhigh,
    hended.readByte_of_wr (before := [_, _]) (by simp [byte_ne_sub_one, byte_ne_sub_two]),
    hended.readByte_of_wr (before := [_, _, _]) (by simp),
    hended.readByte_of_wr (before := [_, _, _, _]) (by simp), hended.sameOutside⟩

/-- Settles O27: what the last read gets is what memory holds at the end, and before the pushes too where they miss it. -/
theorem jsrPushesAndJumpsWithTheLateHighByte : Obligations.JsrPushesAndJumpsWithTheLateHighByte := by
  refine ⟨fun a s => ?_, fun s hs => ?_⟩
  · intro ret a0 a1
    obtain ⟨t, b0, b1, b2, hi, hexec, hended⟩ := exec_jsr_ended a s
    refine ⟨t, b0, b1, b2, hi, hexec, hended, hended.byte_of_rd_last (before := [_, _, _, _, _]) (by simp),
      hended.readByte_of_wr (before := [_, _, _]) (by simp [byte_ne_sub_one]),
      hended.readByte_of_wr (before := [_, _, _, _]) (by simp), hended.sameOutside, ?_⟩
    intro hbacked hmissed hoperand
    have hhi : hi = readByte s.mem ret := hended.byte_of_rd_first (before := [_, _, _, _, _]) hmissed hbacked
    rw [hended.pc_eq, hhi, hoperand, addrOf_high_low]
  · obtain ⟨hi, hstep⟩ := step_of_opcode_jsr hs
    obtain ⟨t, _, _, _, _, hexec, hended⟩ := exec_jsr_ended (addrOf hi ((s.afterRead s.pc).busRead (s.pc + 1))) s
    refine ⟨t, hstep.trans hexec, ?_, hended.regs_eq⟩
    rw [hended.pc_eq, lowByte_addrOf, lowByte_addrOf]

end Sys2Proof.Proofs
end

section
/-! SUPPORT. A pull after a push (spec/40_stack_instructions.md R80): what each push leaves in the bytes above S, what each pull
makes of them; and where the rows of the family write (R82). -/

namespace Sys2Proof.Machine

open Sys2Proof.Safety Sys2Proof.Proofs

/-! ## The bytes above S (R5, R80) -/

/-- Memory stands `k` bytes above S on the stack, and holds this byte there. -/
def OnStack (t : State) (k b : Byte) : Prop :=
  Backed t (stackAddr (t.regs.s + k)) ∧ readByte t.mem (stackAddr (t.regs.s + k)) = b

/-- A byte stored in a stack page of plain memory is on the stack. -/
theorem onStack_of_stored {s t : State} {x k b : Byte} (hplain : Plain s (stackAddr x)) (hplatform : t.platform = s.platform)
    (hs : t.regs.s + k = x) (hstored : readByte t.mem (stackAddr x) = stored s (stackAddr x) b) : OnStack t k b := by
  subst hs
  refine ⟨.inl (hplatform ▸ hplain), ?_⟩
  exact hstored.trans (if_pos hplain)

/-- A pull that gets what memory holds, where memory stands, gets the byte on the stack. -/
theorem OnStack.byte_eq {t : State} {k b v : Byte} (h : OnStack t k b)
    (hv : Backed t (stackAddr (t.regs.s + k)) → v = readByte t.mem (stackAddr (t.regs.s + k))) : v = b := by
  obtain ⟨hbacked, hheld⟩ := h
  exact (hv hbacked).trans hheld

section
variable {s : State} (hplain : ∀ b : Byte, Plain s (stackAddr b))
include hplain

theorem exec_pha_onStack : ∃ t, exec .pha s = .next t ∧ t.regs = { s.regs with s := s.regs.s - 1 } ∧
    OnStack t 1 s.regs.a := by
  obtain ⟨t, _, _, hexec, hended, hstored, -⟩ := phaPushesTheAccumulator s
  exact ⟨t, hexec, hended.regs_eq, onStack_of_stored (hplain _) hended.platform_eq (by simp [hended.regs_eq]) hstored⟩

theorem exec_php_onStack : ∃ t, exec .php s = .next t ∧ t.regs = { s.regs with s := s.regs.s - 1 } ∧
    OnStack t 1 (pushByte s.regs.p true) := by
  obtain ⟨t, _, _, hexec, hended, hstored, -⟩ := phpPushesTheFlags s
  rw [← pushByte_true_eq] at hstored
  exact ⟨t, hexec, hended.regs_eq, onStack_of_stored (hplain _) hended.platform_eq (by simp [hended.regs_eq]) hstored⟩

theorem exec_jsr_onStack (a : Addr) : ∃ t, exec (.jsr a) s = .next t ∧ t.regs = { s.regs with s := s.regs.s - 2 } ∧
    OnStack t 1 (lowByte (s.pc + 2)) ∧ OnStack t 2 (highByte (s.pc + 2)) ∧
    t.trace.getLast?.map (fun e => (e.addr, e.kind)) = some (s.pc + 2, .read) := by
  obtain ⟨t, _, _, _, _, hexec, hended, -, hhigh, hlow, -⟩ := jsrPushesAndJumpsWithTheLateHighByte.1 a s
  refine ⟨t, hexec, hended.regs_eq, onStack_of_stored (hplain _) hended.platform_eq ?_ hlow,
    onStack_of_stored (hplain _) hended.platform_eq ?_ hhigh, ?_⟩
  · rw [hended.regs_eq, byte_sub_two, BitVec.sub_add_cancel]
  · rw [hended.regs_eq, BitVec.sub_add_cancel]
  · simp [hended.trace_eq, rd]

theorem exec_brk_onStack : ∃ t, exec .brk s = .next t ∧
    t.regs = { s.regs with s := s.regs.s - 3, p := { s.regs.p with i := true } } ∧
    OnStack t 1 (pushByte s.regs.p true) ∧ OnStack t 2 (lowByte (s.pc + 2)) ∧ OnStack t 3 (highByte (s.pc + 2)) := by
  obtain ⟨t, _, _, _, _, hexec, hended, -, -, hhigh, hlow, himage, -⟩ := brkTakesTheTrap s
  refine ⟨t, hexec, hended.regs_eq, onStack_of_stored (hplain _) hended.platform_eq ?_ himage,
    onStack_of_stored (hplain _) hended.platform_eq ?_ hlow, onStack_of_stored (hplain _) hended.platform_eq ?_ hhigh⟩
  · rw [hended.regs_eq]
    bv_omega
  · rw [hended.regs_eq]
    bv_omega
  · rw [hended.regs_eq, BitVec.sub_add_cancel]

end

section
variable {t : State} {b lo hi : Byte}

theorem exec_pla_of_onStack (h : OnStack t 1 b) : ∃ u, exec .pla t = .next u ∧
    u.regs = { t.regs with
      a := b, s := t.regs.s + 1, p := { t.regs.p with n := b.getLsbD 7, z := decide (b = 0x00) } } := by
  obtain ⟨u, _, _, _, v, hexec, hended, hv, -⟩ := plaPullsTheAccumulator t
  obtain rfl : v = b := h.byte_eq hv
  exact ⟨u, hexec, hended.regs_eq⟩

theorem exec_plp_of_onStack (h : OnStack t 1 b) : ∃ u, exec .plp t = .next u ∧
    u.regs = { t.regs with s := t.regs.s + 1, p := pullP b } := by
  obtain ⟨u, _, _, _, v, hexec, hended, hv, -⟩ := plpPullsTheFlags t
  obtain rfl : v = b := h.byte_eq hv
  exact ⟨u, hexec, hended.regs_eq⟩

theorem exec_rts_of_onStack (hlow : OnStack t 1 lo) (hhigh : OnStack t 2 hi) : ∃ u, exec .rts t = .next u ∧
    u.pc = addrOf hi lo + 1 ∧ u.regs = { t.regs with s := t.regs.s + 2 } := by
  obtain ⟨u, _, _, _, x, y, _, hexec, hended, hx, hy, -⟩ := rtsReturnsPastThePulledWord t
  obtain rfl : x = lo := hlow.byte_eq hx
  obtain rfl : y = hi := hhigh.byte_eq hy
  exact ⟨u, hexec, hended.pc_eq, hended.regs_eq⟩

theorem exec_rti_of_onStack (hflags : OnStack t 1 b) (hlow : OnStack t 2 lo) (hhigh : OnStack t 3 hi) :
    ∃ u, exec .rti t = .next u ∧ u.pc = addrOf hi lo ∧ u.regs = { t.regs with s := t.regs.s + 3, p := pullP b } := by
  obtain ⟨u, _, _, _, v, x, y, hexec, hended, hv, hx, hy, -⟩ := rtiReturnsFromTheTrap t
  obtain rfl : v = b := hflags.byte_eq hv
  obtain rfl : x = lo := hlow.byte_eq hx
  obtain rfl : y = hi := hhigh.byte_eq hy
  exact ⟨u, hexec, hended.pc_eq, hended.regs_eq⟩

end

/-! ## Where the family writes (R7, R82) -/

/-- The row writes nothing. -/
def Cycle.reads : Cycle → Bool
  | .pushPch | .pushPcl | .pushP | .pushA | .writeBack | .writeNew _ | .writeRegister _ | .writeRegisterIndexed _ => false
  | _ => true

/-- The row is a push. -/
def Cycle.pushes : Cycle → Bool
  | .pushPch | .pushPcl | .pushP | .pushA => true
  | _ => false

theorem cycleAccess_of_reads {k : Cycle} (h : k.reads = true) (s : State) : (cycleAccess k s).kind = .read := by
  cases k
  case pushPch | pushPcl | pushP | pushA | writeBack | writeNew | writeRegister | writeRegisterIndexed => cases h
  all_goals rfl

theorem cycleAccess_of_pushes {k : Cycle} (h : k.pushes = true) (s : State) : (cycleAccess k s).addr = stackAddr s.regs.s := by
  cases k
  case pushPch | pushPcl | pushP | pushA => rfl
  all_goals cases h

theorem exists_row_of_mem_accessesOf {e : BusEvent} {ks : List Cycle} {s : State} (h : e ∈ accessesOf ks s) :
    ∃ k ∈ ks, ∃ u, e = cycleAccess k u := by
  induction ks generalizing s with
  | nil => cases h
  | cons k ks ih =>
    rcases List.mem_cons.1 h with rfl | h
    · exact ⟨k, List.mem_cons_self, s, rfl⟩
    · obtain ⟨l, hl, hu⟩ := ih h
      exact ⟨l, List.mem_cons_of_mem k hl, hu⟩

theorem kind_of_mem_accessesOf {e : BusEvent} {ks : List Cycle} {s : State} (h : ks.all Cycle.reads = true)
    (he : e ∈ accessesOf ks s) : e.kind = .read := by
  obtain ⟨k, hk, u, rfl⟩ := exists_row_of_mem_accessesOf he
  exact cycleAccess_of_reads (List.all_eq_true.1 h k hk) u

/-- R7: rows that write nothing but by a push write in the stack page. -/
theorem page_of_mem_accessesOf {e : BusEvent} {ks : List Cycle} {s : State}
    (h : (ks.all fun k => k.reads || k.pushes) = true) (he : e ∈ accessesOf ks s) (hwrite : e.kind = .write) :
    highByte e.addr = 0x01 := by
  obtain ⟨k, hk, u, rfl⟩ := exists_row_of_mem_accessesOf he
  rcases Bool.or_eq_true_iff.1 (List.all_eq_true.1 h k hk) with hreads | hpushes
  · cases hwrite.symm.trans (cycleAccess_of_reads hreads u)
  · rw [cycleAccess_of_pushes hpushes, highByte_stackAddr]

/-- R82: each of the eight instructions is the run of its table, whose rows read or push, those of the four pulls only read. -/
theorem exec_stack_rows (i : Instr) (s : State) (h : i.mnemonic ∈ [Mnemonic.brk, .rti, .rts, .pha, .php, .pla, .plp, .jsr]) :
    ∃ ks, exec i s = runPlain (.fetchOpcode :: ks) s ∧ ks.all Cycle.follows = true ∧
      (ks.all fun k => k.reads || k.pushes) = true ∧
      (i.mnemonic ∉ [Mnemonic.rti, .rts, .pla, .plp] ∨ ks.all Cycle.reads = true) := by
  cases i
  case brk => exact ⟨_, exec_brk_eq_runPlain s, rfl, rfl, .inl (by simp [Instr.mnemonic])⟩
  case rti => exact ⟨_, exec_rti_eq_runPlain s, rfl, rfl, .inr rfl⟩
  case pha | php | jsr => exact ⟨_, rfl, rfl, rfl, .inl (by simp [Instr.mnemonic])⟩
  case rts | pla | plp => exact ⟨_, rfl, rfl, rfl, .inr rfl⟩
  all_goals exact absurd (decide_eq_true h) Bool.false_ne_true

end Sys2Proof.Machine
end

section
/-! The statements on the family of stack instructions as a whole (spec/40_stack_instructions.md R80, R82). -/

namespace Sys2Proof.Proofs

open Sys2Proof.Machine Sys2Proof.Safety

/-- Settles O28: each push leaves its bytes above S, each pull takes the bytes above S. -/
theorem pushAndPullPairs : Obligations.PushAndPullPairs := by
  intro a s hplain
  obtain ⟨tPha, hPha, hregsPha, htopPha⟩ := exec_pha_onStack hplain
  obtain ⟨tPhp, hPhp, hregsPhp, htopPhp⟩ := exec_php_onStack hplain
  refine ⟨?_, ?_, ?_, ?_, ?_, ?_⟩
  · obtain ⟨u, hu, hregs⟩ := exec_pla_of_onStack htopPha
    exact ⟨tPha, u, hPha, hu, by rw [hregs, hregsPha, BitVec.sub_add_cancel]⟩
  · obtain ⟨u, hu, hregs⟩ := exec_plp_of_onStack htopPhp
    exact ⟨tPhp, u, hPhp, hu, by rw [hregs, hregsPhp, BitVec.sub_add_cancel, pullP_pushByte]⟩
  · obtain ⟨u, hu, hregs⟩ := exec_pla_of_onStack htopPhp
    have ha : u.regs.a = pushByte s.regs.p true := by rw [hregs]
    obtain ⟨-, -, hbit5, hbit4, -⟩ := pushByte_bits s.regs.p true
    exact ⟨tPhp, u, hPhp, hu, ha, ha ▸ hbit5, ha ▸ hbit4⟩
  · obtain ⟨u, hu, hregs⟩ := exec_plp_of_onStack htopPha
    exact ⟨tPha, u, hPha, hu, by rw [hregs]⟩
  · obtain ⟨t, ht, hregsJsr, hlow, hhigh, hlast⟩ := exec_jsr_onStack hplain a
    obtain ⟨u, hu, hpc, hregs⟩ := exec_rts_of_onStack hlow hhigh
    refine ⟨t, u, ht, hu, ?_, ?_, hlast⟩
    · rw [hpc, addrOf_high_low, BitVec.add_assoc]
      rfl
    · rw [hregs, hregsJsr, BitVec.sub_add_cancel]
  · obtain ⟨t, ht, hregsBrk, hflags, hlow, hhigh⟩ := exec_brk_onStack hplain
    obtain ⟨u, hu, hpc, hregs⟩ := exec_rti_of_onStack hflags hlow hhigh
    refine ⟨t, u, ht, hu, ?_, ?_⟩
    · rw [hpc, addrOf_high_low]
    · rw [hregs, hregsBrk, BitVec.sub_add_cancel, pullP_pushByte]

/-- Settles O29: each write of the family is the access of a push row. -/
theorem stackFamilyWritesStayInPageOne : Obligations.StackFamilyWritesStayInPageOne := by
  intro i s t es hexec htrace hm
  obtain ⟨ks, hrows, hfollows, hstack, hpull⟩ := exec_stack_rows i s hm
  obtain ⟨t', hrun, hended⟩ := runPlain_ended hfollows s
  obtain rfl : t' = t := by
    rw [hrows, hrun] at hexec
    exact Host.Outcome.next.inj hexec
  obtain rfl : es = accessesOf (.fetchOpcode :: ks) s := List.append_cancel_left (htrace.symm.trans hended.trace_eq)
  have hpage : ∀ e ∈ accessesOf (.fetchOpcode :: ks) s, e.kind = .write → highByte e.addr = 0x01 :=
    fun _ he => page_of_mem_accessesOf (ks := .fetchOpcode :: ks) hstack he
  refine ⟨hpage, fun b hb => hended.sameOutside b fun hmem => ?_, fun hmem => ?_⟩
  · obtain ⟨e, he, hwrite, rfl⟩ := mem_writtenAt.1 hmem
    exact hb (hpage e he hwrite)
  · have hreads : ∀ e ∈ accessesOf (.fetchOpcode :: ks) s, e.kind = .read :=
      fun _ he => kind_of_mem_accessesOf (ks := .fetchOpcode :: ks) (hpull.resolve_left (not_not_intro hmem)) he
    refine ⟨hreads, fun b _ => hended.sameOutside b fun hwritten => ?_⟩
    obtain ⟨e, he, hwrite, -⟩ := mem_writtenAt.1 hwritten
    cases hwrite.symm.trans (hreads e he)

end Sys2Proof.Proofs
end

section
/-! The statements of the family on accumulator, implied and immediate addressing (spec/41_implied_immediate.md R90, R91). Each of
these instructions is the microsequence of its table for its own mnemonic; what the two microsequences do is said once, in
`runImplied_result` and `runImmediate_result`. -/

namespace Sys2Proof.Proofs

open Sys2Proof.Machine

/-- Settles O30: each instruction is the microsequence of R90 for its mnemonic. -/
theorem impliedRunsImpliedOp : Obligations.ImpliedRunsImpliedOp := by
  intro s gives
  have gives_of_runImplied {i : Instr} {m : Mnemonic} (h : exec i s = runImplied m s) : gives i m := by
    obtain ⟨t, b0, b1, hrun, hended, hmem⟩ := runImplied_result m s
    exact ⟨t, b0, b1, h.trans hrun, hended, hmem⟩
  refine ⟨?asl, ?clc, ?rol, ?sec, ?lsr, ?cli, ?ror, ?sei, ?dey, ?txa, ?tya, ?txs, ?tay, ?tax, ?clv, ?tsx, ?iny, ?dex, ?cld,
    ?inx, ?nop, ?sed⟩
  all_goals exact gives_of_runImplied rfl

/-- Settles O31: each instruction is the microsequence of R91 for its mnemonic and operand byte. -/
theorem immediateRunsImmOp : Obligations.ImmediateRunsImmOp := by
  intro v s gives
  have gives_of_runImmediate {i : Instr} {m : Mnemonic} (h : exec i s = runImmediate m v s) : gives i m := by
    obtain ⟨t, b0, b1, hrun, hended, hmem⟩ := runImmediate_result m v s
    exact ⟨t, b0, b1, h.trans hrun, hended, hmem⟩
  refine ⟨?ora, ?and, ?eor, ?adc, ?ldy, ?ldx, ?lda, ?cpy, ?cmp, ?cpx, ?sbc⟩
  all_goals exact gives_of_runImmediate rfl

end Sys2Proof.Proofs
end

section
/-! SUPPORT. JMP absolute (spec/42_absolute.md R95): its end with the bytes that the fetch gets, and the step that its opcode byte
selects. -/

namespace Sys2Proof.Machine

open Sys2Proof.Safety

/-- R165: a step that fetches the encoding of an instruction executes it. -/
theorem step_of_fetchBytes_eq_encode {s : State} {i : Instr} (h : fetchBytes s = encode i) : step s = exec i s := by
  refine step_of_decode (rest := []) ?_
  rw [h, ← List.append_nil (encode i), decode_encode_append]

/-- R95: JMP absolute ends with PC at its operand, after three reads that get the fetched bytes. -/
theorem exec_jmpAbs_ended {s : State} {b0 b1 b2 : Byte} (h : fetchBytes s = [b0, b1, b2]) (a : Addr) :
    ∃ t, exec (.jmpAbs a) s = .next t ∧ Ended s t s.regs a [rd s.pc b0, rd (s.pc + 1) b1, rd (s.pc + 2) b2] := by
  obtain ⟨rfl, rfl, rfl⟩ : s.busRead s.pc = b0 ∧ (s.afterRead s.pc).busRead (s.pc + 1) = b1 ∧
      ((s.afterRead s.pc).afterRead (s.pc + 1)).busRead (s.pc + 2) = b2 := by
    simpa only [fetchBytes, List.cons.injEq, and_true] using h
  obtain ⟨t, hexec, hended⟩ := runPlain_ended (ks := [.fetchLow (lowByte a), .jumpHigh (highByte a)]) rfl s
  replace hended : Ended s t s.regs (addrOf (highByte a) (lowByte a))
    [rd s.pc _, rd (s.pc + 1) _, rd (s.pc + 1 + 1) (((s.afterRead s.pc).afterRead (s.pc + 1)).busRead (s.pc + 1 + 1))] := hended
  rw [addrOf_high_low, ← addr_add_two] at hended
  exact ⟨t, hexec, hended⟩

end Sys2Proof.Machine
end

section
/-! The statements of the family on absolute addressing (spec/42_absolute.md R95 to R98). Each Read, Read-Modify-Write and Write
instruction is the microsequence of its table for its own mnemonic; what the three do is said once, in `absoluteRead_result`,
`absoluteRmw_result` and `absoluteWrite_result`. -/

namespace Sys2Proof.Proofs

open Sys2Proof.Machine

/-- Settles O32: a step that fetches $4C executes JMP with the two bytes that it fetches next, which its own reads get again. -/
theorem jmpAbsoluteLoadsPc : Obligations.JmpAbsoluteLoadsPc := by
  refine ⟨fun a s => ?_, fun s hs => ?_⟩
  · obtain ⟨t, hexec, hended⟩ := exec_jmpAbs_ended (s := s) rfl a
    exact ⟨t, _, _, _, hexec, hended, hended.sameOutside⟩
  · obtain ⟨lo, hi, hfetch⟩ : ∃ lo hi, fetchBytes s = [0x4C, lo, hi] := ⟨_, _, congrArg (· :: [_, _]) hs⟩
    have hencode : encode (.jmpAbs (addrOf hi lo)) = [0x4C, lo, hi] := by
      change [0x4C, lowByte (addrOf hi lo), highByte (addrOf hi lo)] = _
      rw [lowByte_addrOf, highByte_addrOf]
    obtain ⟨t, hexec, hended⟩ := exec_jmpAbs_ended hfetch (addrOf hi lo)
    have hstep : step s = .next t := (step_of_fetchBytes_eq_encode (hfetch.trans hencode.symm)).trans hexec
    exact ⟨t, _, lo, hi, hstep, hended, hended.sameOutside⟩

/-- Settles O33: each instruction is the microsequence of R96 for its mnemonic. -/
theorem absoluteReadRunsReadOp : Obligations.AbsoluteReadRunsReadOp := by
  intro a s gives
  have gives_of_absoluteRead {i : Instr} {m : Mnemonic} (h : exec i s = absoluteRead m a s) : gives i m := by
    obtain ⟨t, b0, b1, b2, v, hrun, hended, hmem⟩ := absoluteRead_result m a s
    exact ⟨t, b0, b1, b2, v, h.trans hrun, hended, hmem⟩
  refine ⟨?nop, ?ora, ?bit, ?and, ?eor, ?adc, ?ldy, ?lda, ?ldx, ?lax, ?cpy, ?cmp, ?cpx, ?sbc⟩
  all_goals exact gives_of_absoluteRead rfl

/-- Settles O34: each instruction is the microsequence of R97 for its mnemonic. -/
theorem absoluteRmwWritesTwice : Obligations.AbsoluteRmwWritesTwice := by
  intro a s gives
  have gives_of_absoluteRmw {i : Instr} {m : Mnemonic} (h : exec i s = absoluteRmw m a s) : gives i m := by
    obtain ⟨t, b0, b1, b2, v, hrun, hended, hstored, hmem⟩ := absoluteRmw_result m a s
    exact ⟨t, b0, b1, b2, v, h.trans hrun, hended, hstored, hmem⟩
  refine ⟨?asl, ?slo, ?rol, ?rla, ?lsr, ?sre, ?ror, ?rra, ?dec, ?dcp, ?inc, ?isb⟩
  all_goals exact gives_of_absoluteRmw rfl

/-- Settles O35: each instruction is the microsequence of R98 for its mnemonic, whose `StoreVal` R8 fixes but for SAX. -/
theorem absoluteWriteStores : Obligations.AbsoluteWriteStores := by
  intro a s gives
  have gives_of_absoluteWrite {i : Instr} (m : Mnemonic) (h : exec i s = absoluteWrite m a s) :
      gives i (storeVal m s.regs none) := by
    obtain ⟨t, b0, b1, b2, hrun, hended, hstored, hmem⟩ := absoluteWrite_result m a s
    exact ⟨t, b0, b1, b2, h.trans hrun, hended, hstored, hmem⟩
  exact ⟨gives_of_absoluteWrite .sty rfl, gives_of_absoluteWrite .sta rfl, gives_of_absoluteWrite .stx rfl,
    gives_of_absoluteWrite .sax rfl⟩

end Sys2Proof.Proofs
end

section
/-! The statements of the family on zero page and zero page indexed addressing (spec/43_zero_page.md R100 to R105). Each instruction
is the microsequence of its table for its own mnemonic and, in the indexed forms, its own index register; what the six
microsequences do is said once, in `zeroPageRead_result` and the five lemmas after it. -/

namespace Sys2Proof.Proofs

open Sys2Proof.Machine

/-- Settles O36: each instruction is the microsequence of R100 for its mnemonic. -/
theorem zeroPageReadRunsReadOp : Obligations.ZeroPageReadRunsReadOp := by
  intro zp s gives
  have gives_of_zeroPageRead {i : Instr} {m : Mnemonic} (h : exec i s = zeroPageRead m zp s) : gives i m := by
    obtain ⟨t, b0, b1, v, hrun, hended, hmem⟩ := zeroPageRead_result m zp s
    exact ⟨t, b0, b1, v, h.trans hrun, hended, hmem⟩
  refine ⟨?nop04, ?ora, ?bit, ?and, ?nop44, ?eor, ?nop64, ?adc, ?ldy, ?lda, ?ldx, ?lax, ?cpy, ?cmp, ?cpx, ?sbc⟩
  all_goals exact gives_of_zeroPageRead rfl

/-- Settles O37: each instruction is the microsequence of R101 for its mnemonic. -/
theorem zeroPageRmwWritesTwice : Obligations.ZeroPageRmwWritesTwice := by
  intro zp s gives
  have gives_of_zeroPageRmw {i : Instr} {m : Mnemonic} (h : exec i s = zeroPageRmw m zp s) : gives i m := by
    obtain ⟨t, b0, b1, v, hrun, hended, hstored, hmem⟩ := zeroPageRmw_result m zp s
    exact ⟨t, b0, b1, v, h.trans hrun, hended, hstored, hmem⟩
  refine ⟨?asl, ?slo, ?rol, ?rla, ?lsr, ?sre, ?ror, ?rra, ?dec, ?dcp, ?inc, ?isb⟩
  all_goals exact gives_of_zeroPageRmw rfl

/-- Settles O38: each instruction is the microsequence of R102 for its mnemonic, whose `StoreVal` R8 fixes but for SAX. -/
theorem zeroPageWriteStores : Obligations.ZeroPageWriteStores := by
  intro zp s gives
  have gives_of_zeroPageWrite {i : Instr} (m : Mnemonic) (h : exec i s = zeroPageWrite m zp s) :
      gives i (storeVal m s.regs none) := by
    obtain ⟨t, b0, b1, hrun, hended, hstored, hmem⟩ := zeroPageWrite_result m zp s
    exact ⟨t, b0, b1, h.trans hrun, hended, hstored, hmem⟩
  exact ⟨gives_of_zeroPageWrite .sty rfl, gives_of_zeroPageWrite .sta rfl, gives_of_zeroPageWrite .stx rfl,
    gives_of_zeroPageWrite .sax rfl⟩

/-- Settles O39: each instruction is the microsequence of R103 for its mnemonic and index register, which is Y for LDX and LAX. -/
theorem zeroPageIndexedReadRunsReadOp : Obligations.ZeroPageIndexedReadRunsReadOp := by
  intro zp s gives
  have gives_of_zeroPageIndexedRead {i : Instr} {m : Mnemonic} (ix : Index) (h : exec i s = zeroPageIndexedRead m ix zp s) :
      gives i m (indexValue ix s.regs) := by
    obtain ⟨t, b0, b1, b2, v, hrun, hended, hmem⟩ := zeroPageIndexedRead_result m ix zp s
    exact ⟨t, b0, b1, b2, v, h.trans hrun, hended, hmem⟩
  refine ⟨?nop14, ?ora, ?nop34, ?and, ?nop54, ?eor, ?nop74, ?adc, ?ldy, ?lda, ?ldx, ?lax, ?nopD4, ?cmp, ?nopF4, ?sbc⟩
  case ldx | lax => exact gives_of_zeroPageIndexedRead .y rfl
  all_goals exact gives_of_zeroPageIndexedRead .x rfl

/-- Settles O40: each instruction is the microsequence of R104 for its mnemonic and the index register X. -/
theorem zeroPageIndexedRmwWritesTwice : Obligations.ZeroPageIndexedRmwWritesTwice := by
  intro zp s gives
  have gives_of_zeroPageIndexedRmw {i : Instr} {m : Mnemonic} (h : exec i s = zeroPageIndexedRmw m .x zp s) :
      gives i m s.regs.x := by
    obtain ⟨t, b0, b1, b2, v, hrun, hended, hstored, hmem⟩ := zeroPageIndexedRmw_result m .x zp s
    exact ⟨t, b0, b1, b2, v, h.trans hrun, hended, hstored, hmem⟩
  refine ⟨?asl, ?slo, ?rol, ?rla, ?lsr, ?sre, ?ror, ?rra, ?dec, ?dcp, ?inc, ?isb⟩
  all_goals exact gives_of_zeroPageIndexedRmw rfl

/-- Settles O41: each instruction is the microsequence of R105 for its mnemonic, whose `StoreVal` R8 fixes but for SAX, and its index
register, which is Y for STX and SAX. -/
theorem zeroPageIndexedWriteStores : Obligations.ZeroPageIndexedWriteStores := by
  intro zp s gives
  have gives_of_zeroPageIndexedWrite {i : Instr} (m : Mnemonic) (ix : Index) (h : exec i s = zeroPageIndexedWrite m ix zp s) :
      gives i (storeVal m s.regs none) (indexValue ix s.regs) := by
    obtain ⟨t, b0, b1, b2, hrun, hended, hstored, hmem⟩ := zeroPageIndexedWrite_result m ix zp s
    exact ⟨t, b0, b1, b2, h.trans hrun, hended, hstored, hmem⟩
  exact ⟨gives_of_zeroPageIndexedWrite .sty .x rfl, gives_of_zeroPageIndexedWrite .sta .x rfl,
    gives_of_zeroPageIndexedWrite .stx .y rfl, gives_of_zeroPageIndexedWrite .sax .y rfl⟩

end Sys2Proof.Proofs
end

section
/-! The statements of the family on absolute indexed addressing (spec/44_absolute_indexed.md R110 to R113). Each executed instruction is
the microsequence of its table for its own mnemonic and its own index register; what the three microsequences do, the dummy read at
the early address included, is said once, in `absoluteIndexedRead_result` and the two lemmas after it. SHA, SHX, SHY, SHS and LAE
have no microsequence: their meaning is the refusal of R166. -/

namespace Sys2Proof.Proofs

open Sys2Proof.Machine

/-- Settles O42: each executed instruction is the microsequence of R111 for its mnemonic and index register. -/
theorem absoluteIndexedReadRunsReadOp : Obligations.AbsoluteIndexedReadRunsReadOp := by
  intro a s gives
  have gives_of_absoluteIndexedRead {i : Instr} {m : Mnemonic} (ix : Index) (h : exec i s = absoluteIndexedRead m ix a s) :
      gives i m (indexValue ix s.regs) := by
    obtain ⟨t, b0, b1, b2, w, v, hrun, hended, hmem⟩ := absoluteIndexedRead_result m ix a s
    exact ⟨t, b0, b1, b2, w, v, h.trans hrun, hended, hmem⟩
  refine ⟨?oraY, ?nopX1C, ?oraX, ?andY, ?nopX3C, ?andX, ?eorY, ?nopX5C, ?eorX, ?adcY, ?nopX7C, ?adcX, ?ldaY, ?ldyX, ?ldaX,
    ?ldxY, ?laxY, ?cmpY, ?nopXDC, ?cmpX, ?sbcY, ?nopXFC, ?sbcX, ?shs, ?lae⟩
  case shs | lae => rfl
  case oraY | andY | eorY | adcY | ldaY | ldxY | laxY | cmpY | sbcY => exact gives_of_absoluteIndexedRead .y rfl
  all_goals exact gives_of_absoluteIndexedRead .x rfl

/-- Settles O43: each instruction is the microsequence of R112 for its mnemonic and index register. -/
theorem absoluteIndexedRmwWritesTwice : Obligations.AbsoluteIndexedRmwWritesTwice := by
  intro a s gives
  have gives_of_absoluteIndexedRmw {i : Instr} {m : Mnemonic} (ix : Index) (h : exec i s = absoluteIndexedRmw m ix a s) :
      gives i m (indexValue ix s.regs) := by
    obtain ⟨t, b0, b1, b2, w, v, hrun, hended, hstored, hmem⟩ := absoluteIndexedRmw_result m ix a s
    exact ⟨t, b0, b1, b2, w, v, h.trans hrun, hended, hstored, hmem⟩
  refine ⟨?sloY, ?aslX, ?sloX, ?rlaY, ?rolX, ?rlaX, ?sreY, ?lsrX, ?sreX, ?rraY, ?rorX, ?rraX, ?dcpY, ?decX, ?dcpX, ?isbY, ?incX,
    ?isbX⟩
  case sloY | rlaY | sreY | rraY | dcpY | isbY => exact gives_of_absoluteIndexedRmw .y rfl
  all_goals exact gives_of_absoluteIndexedRmw .x rfl

/-- Settles O44: STA is the microsequence of R113 with either index register; its `StoreVal` is A, whatever the pending carry. -/
theorem absoluteIndexedWriteStores : Obligations.AbsoluteIndexedWriteStores := by
  intro a s gives
  have gives_of_absoluteIndexedWrite_sta {i : Instr} (ix : Index) (h : exec i s = absoluteIndexedWrite .sta ix a s) :
      gives i s.regs.a (indexValue ix s.regs) := by
    obtain ⟨t, b0, b1, b2, w, hrun, hended, hstored, hmem⟩ := absoluteIndexedWrite_result .sta ix a s
    exact ⟨t, b0, b1, b2, w, h.trans hrun, hended, hstored, hmem⟩
  exact ⟨gives_of_absoluteIndexedWrite_sta .y rfl, gives_of_absoluteIndexedWrite_sta .x rfl, rfl, rfl, rfl⟩

end Sys2Proof.Proofs
end

section
/-! The statement of the family on relative addressing (spec/45_relative.md R115, R116, R180 to R187). Each branch is the microsequence
of R115 under its own condition of R116; what the microsequence does, the reads of a taken and of a page-crossing branch included,
is said once, in `branch_result`. -/

namespace Sys2Proof.Proofs

open Sys2Proof.Machine

/-- Settles O52: each instruction is the microsequence of R115, and `taken` of its mnemonic is the condition that the statement names. -/
theorem branchesFollowTheirFlag : Obligations.BranchesFollowTheirFlag := by
  intro d s pn target gives
  have gives_of_branch {i : Instr} (b : Branch) (h : exec i s = branch b d s) : gives i (taken b s.regs.p) := by
    obtain ⟨t, b0, b1, b2, b3, hrun, hended, hmem⟩ := branch_result b d s
    exact ⟨t, b0, b1, b2, b3, h.trans hrun, hended, hmem⟩
  exact ⟨gives_of_branch .bpl rfl, gives_of_branch .bmi rfl, gives_of_branch .bvc rfl, gives_of_branch .bvs rfl,
    gives_of_branch .bcc rfl, gives_of_branch .bcs rfl, gives_of_branch .bne rfl, gives_of_branch .beq rfl⟩

end Sys2Proof.Proofs
end

section
/-! SUPPORT. Instructions whose rows write no register: JMP (absolute) in this family (spec/46_indirect.md R128). -/

namespace Sys2Proof.Machine

open Sys2Proof.Safety

/-- The row leaves A, X, Y, S and P alone. -/
def Cycle.keepsRegs (k : Cycle) : Bool := k.keepsXY && k.keepsA && k.keepsP && k.keepsS

theorem runCycle_regs {k : Cycle} (h : k.keepsRegs = true) (s : State) : (runCycle k s).regs = s.regs := by
  simp only [Cycle.keepsRegs, Bool.and_eq_true] at h
  obtain ⟨⟨⟨hxy, ha⟩, hp⟩, hs⟩ := h
  obtain ⟨hx, hy⟩ := runCycle_xy hxy s
  exact (Regs.mk.injEq ..).mpr ⟨runCycle_a ha s, hx, hy, runCycle_s hs s, runCycle_p hp s⟩

/-- An instruction of unmarked rows that write no register completes with the registers it began with. -/
theorem runPlain_ended_of_keepsRegs {ks : List Cycle} (h : ks.all Cycle.follows = true) (hregs : ks.all Cycle.keepsRegs = true)
    (s : State) :
    let rows := .fetchOpcode :: ks
    ∃ t, runPlain rows s = .next t ∧ Ended s t s.regs (runRows rows s).pc (accessesOf rows s) := by
  intro rows
  obtain ⟨t, hrun, hended⟩ := runPlain_ended h s
  have hkept : (runRows rows s).regs = s.regs :=
    runRows_keeps id (fun _ => runCycle_regs) (List.all_cons.trans (Bool.and_eq_true_iff.2 ⟨rfl, hregs⟩)) s
  exact ⟨t, hrun, hkept ▸ hended⟩

end Sys2Proof.Machine
end

section
/-! The statements of the family on indexed indirect, indirect indexed and absolute indirect addressing (spec/46_indirect.md R120 to
R128). Each executed (zp,X) and (zp),Y instruction is the microsequence of its table for its own mnemonic; what the six
microsequences do is said once, in `indexedIndirectRead_result` and the lemmas named like it. SHA has no microsequence: its meaning
is the refusal of R166. JMP (absolute) is five unmarked rows, none of which writes a register or memory. -/

namespace Sys2Proof.Proofs

open Sys2Proof.Machine Sys2Proof.Safety

/-- Settles O45: each instruction is the microsequence of R121 for its mnemonic. -/
theorem indexedIndirectReadRunsReadOp : Obligations.IndexedIndirectReadRunsReadOp := by
  intro p s gives
  have gives_of_indexedIndirectRead {i : Instr} {m : Mnemonic} (h : exec i s = indexedIndirectRead m p s) : gives i m := by
    obtain ⟨t, b0, b1, b2, lo, hi, v, hrun, hended, hmem⟩ := indexedIndirectRead_result m p s
    exact ⟨t, b0, b1, b2, lo, hi, v, h.trans hrun, hended, hmem⟩
  refine ⟨?ora, ?and, ?eor, ?adc, ?lda, ?lax, ?cmp, ?sbc⟩
  all_goals exact gives_of_indexedIndirectRead rfl

/-- Settles O46: each instruction is the microsequence of R122 for its mnemonic. -/
theorem indexedIndirectRmwWritesTwice : Obligations.IndexedIndirectRmwWritesTwice := by
  intro p s gives
  have gives_of_indexedIndirectRmw {i : Instr} {m : Mnemonic} (h : exec i s = indexedIndirectRmw m p s) : gives i m := by
    obtain ⟨t, b0, b1, b2, lo, hi, v, hrun, hended, hstored, hmem⟩ := indexedIndirectRmw_result m p s
    exact ⟨t, b0, b1, b2, lo, hi, v, h.trans hrun, hended, hstored, hmem⟩
  refine ⟨?slo, ?rla, ?sre, ?rra, ?dcp, ?isb⟩
  all_goals exact gives_of_indexedIndirectRmw rfl

/-- Settles O47: both instructions are the microsequence of R123 for their mnemonic, whose `StoreVal` R8 fixes but for SAX. -/
theorem indexedIndirectWriteStores : Obligations.IndexedIndirectWriteStores := by
  intro p s gives
  have gives_of_indexedIndirectWrite {i : Instr} (m : Mnemonic) (h : exec i s = indexedIndirectWrite m p s) :
      gives i (storeVal m s.regs none) := by
    obtain ⟨t, b0, b1, b2, lo, hi, hrun, hended, hstored, hmem⟩ := indexedIndirectWrite_result m p s
    exact ⟨t, b0, b1, b2, lo, hi, h.trans hrun, hended, hstored, hmem⟩
  exact ⟨gives_of_indexedIndirectWrite .sta rfl, gives_of_indexedIndirectWrite .sax rfl⟩

/-- Settles O48: each instruction is the microsequence of R125 for its mnemonic. -/
theorem indirectIndexedReadRunsReadOp : Obligations.IndirectIndexedReadRunsReadOp := by
  intro p s gives
  have gives_of_indirectIndexedRead {i : Instr} {m : Mnemonic} (h : exec i s = indirectIndexedRead m p s) : gives i m := by
    obtain ⟨t, b0, b1, lo, hi, w, v, hrun, hended, hmem⟩ := indirectIndexedRead_result m p s
    exact ⟨t, b0, b1, lo, hi, w, v, h.trans hrun, hended, hmem⟩
  refine ⟨?ora, ?and, ?eor, ?adc, ?lda, ?lax, ?cmp, ?sbc⟩
  all_goals exact gives_of_indirectIndexedRead rfl

/-- Settles O49: each instruction is the microsequence of R126 for its mnemonic. -/
theorem indirectIndexedRmwWritesTwice : Obligations.IndirectIndexedRmwWritesTwice := by
  intro p s gives
  have gives_of_indirectIndexedRmw {i : Instr} {m : Mnemonic} (h : exec i s = indirectIndexedRmw m p s) : gives i m := by
    obtain ⟨t, b0, b1, lo, hi, w, v, hrun, hended, hstored, hmem⟩ := indirectIndexedRmw_result m p s
    exact ⟨t, b0, b1, lo, hi, w, v, h.trans hrun, hended, hstored, hmem⟩
  refine ⟨?slo, ?rla, ?sre, ?rra, ?dcp, ?isb⟩
  all_goals exact gives_of_indirectIndexedRmw rfl

/-- Settles O50: STA is the microsequence of R127; its `StoreVal` is A, whatever the pending carry. SHA is refused. -/
theorem indirectIndexedWriteStores : Obligations.IndirectIndexedWriteStores := by
  intro p s gives
  have gives_sta : gives (.staIndY p) s.regs.a := by
    obtain ⟨t, b0, b1, lo, hi, w, hrun, hended, hstored, hmem⟩ := indirectIndexedWrite_result .sta p s
    exact ⟨t, b0, b1, lo, hi, w, hrun, hended, hstored, hmem⟩
  exact ⟨gives_sta, rfl⟩

/-- Settles O51, by the rows of R128: the pointer is assembled from the operand's two bytes, and its second byte is read at the next
address inside its page. -/
theorem jmpIndirectWrapsInsideThePage : Obligations.JmpIndirectWrapsInsideThePage := by
  intro a s a1
  obtain ⟨t, hexec, hended⟩ := runPlain_ended_of_keepsRegs
    (ks := [.fetchPointerLow (lowByte a), .fetchPointerHigh (highByte a), .fetchLatch, .fetchPchCopyLatch]) rfl rfl s
  have hpointer : addrOf (highByte a) (lowByte (zeroPageAddr (lowByte a))) = a := by
    rw [lowByte_zeroPageAddr, addrOf_high_low]
  replace hended : Ended s t s.regs (addrOf _ _)
    [rd s.pc _, rd (s.pc + 1) _, rd (s.pc + 1 + 1) _, rd (addrOf (highByte a) (lowByte (zeroPageAddr (lowByte a)))) _,
      rd (nextInPage (addrOf (highByte a) (lowByte (zeroPageAddr (lowByte a))))) _] := hended
  rw [hpointer, ← addr_add_two] at hended
  exact ⟨t, _, _, _, _, _, hexec, hended, hended.byte_of_rd_first (before := [_, _, _]) (by simp),
    hended.byte_of_rd_first (before := [_, _, _, _]) (by simp), hended.sameOutside⟩

end Sys2Proof.Proofs
end

section
/-! SUPPORT. Which instructions have a meaning (spec/60_exceptions.md R140, R149; spec/70_reset_and_hazards.md R166): no bus access
and no state can stop one that has rows, so the mnemonic alone says whether an instruction completes. -/

namespace Sys2Proof.Machine

/-- The mnemonics of the six rows that R166 refuses. -/
def unstableMnemonics : List Mnemonic := [.sha, .shx, .shy, .shs, .lae]

/-- R166: an unstable row has no meaning, in whatever state it is met. -/
theorem exec_refused_of_mem_unstable {i : Instr} (h : i.mnemonic ∈ unstableMnemonics) (s : State) :
    ∃ b, exec i s = .refused (.unstableOpcode b) := by
  cases i
  case shaIndY | shaAbsY | shxAbsY | shyAbsX | shsAbsY | laeAbsY => exact ⟨_, rfl⟩
  all_goals exact absurd (decide_eq_true h) Bool.false_ne_true

/-- R140, R149: every other meaning (a Read, the rows alone, implied, immediate, BRK's trap and its return) runs all its rows and then
completes; none of them asks anything of the state first. -/
theorem exec_eq_complete_of_not_mem_unstable {i : Instr} (h : i.mnemonic ∉ unstableMnemonics) (s : State) :
    ∃ u, exec i s = complete u := by
  cases i
  case shaIndY | shaAbsY | shxAbsY | shyAbsX | shsAbsY | laeAbsY => exact absurd (decide_eq_false h) Bool.noConfusion
  all_goals exact ⟨_, rfl⟩

end Sys2Proof.Machine
end

section
/-! The statement of the family on exceptions (spec/60_exceptions.md). -/

namespace Sys2Proof.Proofs

open Sys2Proof.Machine

/-- Settles O15: a refused instruction answers no next state, and one that is not refused completes. -/
theorem exactlyTheUnstableRowsStop : Obligations.ExactlyTheUnstableRowsStop := by
  intro i s
  constructor
  · rintro ⟨t, hnext⟩ hunstable
    obtain ⟨b, hrefused⟩ := exec_refused_of_mem_unstable hunstable s
    cases hnext.symm.trans hrefused
  · intro hstable
    obtain ⟨u, hcomplete⟩ := exec_eq_complete_of_not_mem_unstable hstable s
    exact ⟨u.endInstr, hcomplete⟩

end Sys2Proof.Proofs
end

section
/-! SUPPORT. The fetch of an instruction that memory holds (spec/70_reset_and_hazards.md R160, R165): where memory stands at PC, the
decoder looks at the bytes that memory holds (R38), whoever put them there; and how many accesses the step then makes (R164). -/

namespace Sys2Proof.Machine

open Sys2Proof.Safety

/-! ## The bytes at PC (R38, R50, R165) -/

/-- The bytes that memory holds at an address and the two after it, modulo 2^16. -/
def bytesAt (m : Memory) (a : Addr) : List Byte := [readByte m a, readByte m (a + 1), readByte m (a + 2)]

/-- R165: a step at fetched bytes that begin with the encoding of an instruction executes it. -/
theorem step_of_encode_isPrefix {s : State} {i : Instr} (h : encode i <+: fetchBytes s) : step s = exec i s := by
  obtain ⟨rest, hfetch⟩ := h
  exact step_of_decode (hfetch ▸ decode_encode_append i rest)

/-- R38: where memory stands, the fetch gets what it holds; the look at the bytes before is no part of the answer. -/
theorem fetchBytes_getElem?_of_backed {s : State} {k : Nat} (h : Backed s (s.pc + BitVec.ofNat 16 k)) :
    (fetchBytes s)[k]? = (bytesAt s.mem s.pc)[k]? := by
  match k with
  | 0 => exact congrArg some (platformRead_of_backed (BitVec.add_zero s.pc ▸ h) _ _)
  | 1 | 2 => exact congrArg some (platformRead_of_backed h _ _)
  | _ + 3 => rfl

/-- The same of the first bytes together. -/
theorem isPrefix_fetchBytes_of_backed {s : State} {bs : List Byte}
    (hbacked : ∀ k < bs.length, Backed s (s.pc + BitVec.ofNat 16 k)) (h : bs <+: bytesAt s.mem s.pc) : bs <+: fetchBytes s := by
  rw [List.prefix_iff_getElem?] at h ⊢
  exact fun k hk => (fetchBytes_getElem?_of_backed (hbacked k hk)).trans (h k hk)

/-! ## The load of a program (R160, log 5) -/

/-- Three bytes stored at consecutive addresses do not overwrite one another, at the top of the address space either. -/
theorem bytesAt_storeBytes (m : Memory) (a : Addr) (b0 b1 b2 : Byte) :
    bytesAt (storeBytes m a [b0, b1, b2]) a = [b0, b1, b2] := by
  have h01 : a ≠ a + 1 := by bv_omega
  have h02 : a ≠ a + 2 := by bv_omega
  have h12 : a + 1 ≠ a + 2 := by bv_omega
  simp only [bytesAt, storeBytes, ← addr_add_two, readByte_writeByte, if_pos, if_neg h01, if_neg h02, if_neg h12]

theorem bytesAt_withFetchWord (s : State) (nbits w : Nat) :
    bytesAt (s.withFetchWord nbits w).mem (s.withFetchWord nbits w).pc = wordBytes nbits w :=
  bytesAt_storeBytes s.mem s.pc _ _ _

/-- The three addresses of a loaded word are memory: the load puts it there, and does not take it away again. -/
theorem withFetchWord_backed (s : State) (nbits w : Nat) {k : Nat} (hk : k < 3) :
    Backed (s.withFetchWord nbits w) (s.pc + BitVec.ofNat 16 k) := by
  match k with
  | 0 =>
    rw [BitVec.add_zero]
    exact withMemoryAt_keeps (withMemoryAt_keeps (withMemoryAt_backed _ _) _) _
  | 1 => exact withMemoryAt_keeps (withMemoryAt_backed _ _) _
  | 2 => exact withMemoryAt_backed _ _

/-- A word that decodes begins with the encoding of the instruction. -/
theorem encode_isPrefix_of_decodeTableWord {nbits w : Nat} {i : Instr} (h : decodeTableWord nbits w = some i) :
    encode i <+: wordBytes nbits w := by
  unfold decodeTableWord at h
  split at h
  · rename_i rest hdecode
    cases h
    exact ⟨rest, (bytes_of_decode hdecode).symm⟩
  · cases h

/-! ## The accesses of a step (R164) -/

/-- R164: the first row of every instruction is the opcode fetch, a second is always executed, and there are at most six more. -/
theorem exec_next_accesses {i : Instr} {s t : State} (h : exec i s = .next t) :
    ∃ es, t.trace = s.trace ++ rd s.pc (s.busRead s.pc) :: es ∧ 1 ≤ es.length ∧ es.length ≤ 7 := by
  have hrows := exec_rows i s
  rw [h] at hrows
  obtain ⟨k, ks, r, rfl, hk, hks⟩ := hrows
  let s₁ := runCycle .fetchOpcode s
  have hrun : runRows (.fetchOpcode :: k :: ks) s = runRows ks (runCycle k s₁) := congrArg (runRows ks) (if_pos (hk s₁))
  obtain ⟨es, htrace, hes, -⟩ := runRows_accesses ks (runCycle k s₁)
  refine ⟨cycleAccess k s₁ :: es, ?_, Nat.le_add_left 1 _, Nat.succ_le_succ (hes.trans hks)⟩
  calc (runRows (.fetchOpcode :: k :: ks) s).trace
      = s.trace ++ [cycleAccess .fetchOpcode s] ++ [cycleAccess k s₁] ++ es := by
        rw [hrun, htrace, runCycle_trace, runCycle_trace]
    _ = s.trace ++ cycleAccess .fetchOpcode s :: cycleAccess k s₁ :: es := by
        simp only [List.append_assoc, List.cons_append, List.nil_append]

end Sys2Proof.Machine

namespace Sys2Proof.Safety

open Sys2Proof.Machine

/-- R166: a run at `HaltAddr` has ended, whatever fuel is left and whatever stands there. -/
theorem runTo_of_pc_eq {haltAddr : Addr} {s : State} (h : s.pc = haltAddr) (n : Nat) : runTo haltAddr n s = .halted s := by
  cases n <;> exact if_pos h

end Sys2Proof.Safety
end

section
/-! The statements of the family on the start, the fetch and the end of a run (spec/70_reset_and_hazards.md R160, R164 to R166). -/

namespace Sys2Proof.Proofs

open Sys2Proof.Machine Sys2Proof.Safety

/-- Settles O7: the fetch gets the bytes that memory holds, and these begin with the encoding. -/
theorem memoryHoldingAnInstructionRunsIt : Obligations.MemoryHoldingAnInstructionRunsIt :=
  fun _ _ hbacked hheld => step_of_encode_isPrefix (isPrefix_fetchBytes_of_backed hbacked hheld)

/-- Settles O8: after the load the addresses of the word are memory and hold it, which is the case of O7. -/
theorem loadedWordIsTheNextInstruction : Obligations.LoadedWordIsTheNextInstruction := by
  intro nbits w i s hword
  have hheld : encode i <+: bytesAt (s.withFetchWord nbits w).mem (s.withFetchWord nbits w).pc :=
    bytesAt_withFetchWord s nbits w ▸ encode_isPrefix_of_decodeTableWord hword
  exact memoryHoldingAnInstructionRunsIt i _ (fun _ hk => withFetchWord_backed s nbits w (hk.trans_le hheld.length_le)) hheld

/-- Settles O14, by the rows of the instruction that the step runs. -/
theorem everyStepFetchesAtPcAndTakesTwoToEightAccesses : Obligations.EveryStepFetchesAtPcAndTakesTwoToEightAccesses := by
  intro s t hstep
  obtain ⟨i, hexec⟩ := exec_of_step_next hstep
  exact exec_next_accesses hexec

/-- Settles O5: the six unstable rows have a refusal for a meaning, a byte without a row is refused by the step, and `runTo` compares
PC with `HaltAddr` before it steps. -/
theorem howARunEnds : Obligations.HowARunEnds := by
  intro p a s
  refine ⟨?sha93, ?sha9F, ?shx, ?shy, ?shs, ?lae, ?unlisted, ?halts, ?goesOn⟩
  case unlisted => exact fun _ => step_of_decode_error
  case halts => exact runTo_of_pc_eq rfl
  case goesOn => exact fun _ _ hne => if_neg hne
  all_goals rfl

/-- Settles O6: the three bus reads are the look of the decoder at the bytes from PC on. -/
theorem stepRunsTheDecodedInstruction : Obligations.StepRunsTheDecodedInstruction := fun _ _ _ => step_of_decode

end Sys2Proof.Proofs
end
